-- ==== Sys2Proof/Word.lean ====
section
/-! DEFINITION. The widths of FRAMECODEC (spec 00_scope.md R7 to R9): bytes, the 16-bit length and count
registers, 32-bit host words, 20-bit host addresses. -/

namespace Sys2Proof

/-- A wire, content or buffer byte (R6: every such element is 8 bits). -/
abbrev Byte := BitVec 8

/-- A 16-bit quantity: the length field, `didx`, `dlen`, `dwait`, RX_POLLS, SEEK_LIMIT, sizes. -/
abbrev Half := BitVec 16

/-- A host register's 32 bits (R19). -/
abbrev Word := BitVec 32

/-- A host byte address, HOST_AW = 20 bits (R6, R45). -/
abbrev Addr := BitVec 20

end Sys2Proof
end

