-- ==== Sys2Proof/Config.lean ====
section
/-! DEFINITION. What an implementation fixes (spec 00_scope.md R6) and the free values: what the spec leaves to
any value. The free values are opaque: no proof can see what they are. -/

namespace Sys2Proof

/-- The implementation parameters of R6 that a rule reads. They are configuration: constant along every run
(assumption 6). -/
structure Params where
  /-- bytes in TX_PAYLOAD -/
  txPayloadCap : Nat
  /-- bytes in TX_OUT -/
  txOutCap : Nat
  /-- bytes in RX_BUF -/
  rxCap : Nat
deriving DecidableEq, Repr

/-- The reference configuration of R6. -/
def Params.reference : Params := { txPayloadCap := 65521, txOutCap := 131077, rxCap := 65536 }

/-- The constraints R6 puts on the parameters. -/
abbrev Params.Legal (p : Params) : Prop :=
  p.txPayloadCap ≤ 65521 ∧ 32 + 2 * p.txPayloadCap ≤ p.txOutCap ∧ p.txOutCap ≤ 262144 ∧
    1 ≤ p.rxCap ∧ p.rxCap ≤ 65536

/-- FREE VALUE (R181, I10): what the buffer byte at a host address holds from power-up until it is written.
DESIGN CHOICE of form, assumption 5. -/
opaque Config.powerUpByte : Nat → Byte

/-- FREE VALUE (R60, I12, I13): what the k-th read of an unspecified value returns. DESIGN CHOICE of form,
assumption 4. -/
opaque Config.unspecifiedRead : Nat → Word

/-- FREE VALUE (R37, D27): what the Source answers once its script is exhausted; `none` stands for Empty.
DESIGN CHOICE of form, assumption 2. -/
opaque Config.sourceAnswer : Nat → Option Byte

end Sys2Proof
end

