-- ==== Sys2Proof/Syntax.lean ====
section
/-! DEFINITION. The inputs of FRAMECODEC as syntax. The block has no program counter and fetches no instructions
(spec 10_state.md R17): a row of spec/opcode_table.json is a class of the inputs of one step, in six formats.
`Code` is an input word in its format, `Instr` the row it belongs to with what the row leaves open as operands. -/

namespace Sys2Proof

/-- The engine state of R15. -/
inductive Est where
  | idle | encRun | seek | len | lenEsc | body | bodyEsc
deriving DecidableEq, Repr

/-- The three byte buffers of R36. -/
inductive Buf where
  | txPayload | txOut | rxBuf
deriving DecidableEq, Repr

/-- A host access as the bus port carries it (R46, R91). `size` is any number: R49 refuses all but 1 and 4.
A write of size 1 carries its byte in data[7:0]. -/
inductive Transaction where
  | read (a : Addr) (size : Nat)
  | write (a : Addr) (size : Nat) (data : Word)
deriving DecidableEq, Repr

/-- The address of an access. -/
def Transaction.addr : Transaction → Addr
  | .read a _ => a
  | .write a _ _ => a

/-- The size of an access in bytes. -/
def Transaction.size : Transaction → Nat
  | .read _ n => n
  | .write _ n _ => n

/-- An admitted access to a register: 4 bytes, aligned (R47). -/
inductive RegAccess where
  | read
  | write (v : Word)
deriving DecidableEq, Repr

/-- An admitted access to a window or to reserved space: 1 byte, or 4 bytes aligned (R48). -/
inductive WinAccess where
  | read8
  | read32
  | write8 (v : Byte)
  | write32 (v : Word)
deriving DecidableEq, Repr

/-- An input word, in one of the six formats of spec/opcode_table.json. -/
inductive Code where
  /-- CMD32 (R84): the value of a 4-byte write to CMD -/
  | cmd32 (v : Word)
  /-- RXBYTE (R82): the code of `est` in key[10:8], the raw byte of a `Byte(b)` answer in key[7:0] -/
  | rxByte (key : BitVec 11)
  /-- RXPOLL (R113): an `Empty` answer in the state with this code -/
  | rxPoll (est : BitVec 3)
  /-- TXBYTE (R83): one logical byte of S, at the encoder's escape stage -/
  | txByte (x : Byte)
  /-- FTYPE (R90): the content byte C[0] -/
  | fType (x : Byte)
  /-- BUSADDR (R91): a host access -/
  | bus (t : Transaction)
deriving DecidableEq, Repr

/-- One constructor per row of spec/opcode_table.json, in the table's order. -/
inductive Instr where
  -- CMD32: `ign` is the ignored v[31:2]
  | nop (ign : BitVec 30)
  | encode (ign : BitVec 30)
  | decode (ign : BitVec 30)
  | rsvdOp (ign : BitVec 30)
  -- RXBYTE
  | rxSeekDelim
  | rxSeekDiscard (b : Byte)
  | rxLenDelim
  | rxLenEsc
  | rxLenData (b : Byte)
  | rxLenEscDelim
  | rxLenEscData (b : Byte)
  | rxBodyDelim
  | rxBodyEsc
  | rxBodyData (b : Byte)
  | rxBodyEscDelim
  | rxBodyEscData (b : Byte)
  -- RXPOLL: `est` is the reading state the poll was made in
  | rxEmpty (est : Est)
  -- TXBYTE
  | txEsc7E
  | txEsc7D
  | txEsc11
  | txEsc13
  | txPlain (x : Byte)
  -- FTYPE
  | ftTxRequest
  | ftRxIndication
  | ftNoValidFrame
  -- BUSADDR
  | regCmd (acc : RegAccess)
  | regStatus (acc : RegAccess)
  | regIntEn (acc : RegAccess)
  | regRxPolls (acc : RegAccess)
  | regSeekLimit (acc : RegAccess)
  | regEncFrameId (acc : RegAccess)
  | regEncAddr16 (acc : RegAccess)
  | regEncAddr64Lo (acc : RegAccess)
  | regEncAddr64Hi (acc : RegAccess)
  | regEncPayloadSize (acc : RegAccess)
  | regEncLength (acc : RegAccess)
  | regDecKind (acc : RegAccess)
  | regDecLen (acc : RegAccess)
  | regDecFtype (acc : RegAccess)
  | regDecDiscards (acc : RegAccess)
  | winRxBuf (off : BitVec 16) (acc : WinAccess)
  | winTxPayload (off : BitVec 16) (acc : WinAccess)
  | winTxOut (off : BitVec 18) (acc : WinAccess)
  | reservedSpace (a : Addr) (acc : WinAccess)
deriving DecidableEq, Repr

end Sys2Proof
end

