-- ==== Sys2Proof/WellFormed.lean ====
section
/-! DEFINITION. Which terms of `Instr` stand for an input the spec admits: what decoding answers, and what
encoding and decoding agree on. -/

namespace Sys2Proof

/-- The five states in which the decoder polls (R111). -/
def Est.reading : Est → Bool
  | .idle => false
  | .encRun => false
  | .seek => true
  | .len => true
  | .lenEsc => true
  | .body => true
  | .bodyEsc => true

/-- The size in bytes of a window access. -/
def WinAccess.size : WinAccess → Nat
  | .read8 => 1
  | .read32 => 4
  | .write8 _ => 1
  | .write32 _ => 4

/-- R48: 1 byte anywhere, 4 bytes where the offset's low two bits are zero. -/
def WinAccess.alignedAt (off : Nat) (acc : WinAccess) : Bool :=
  acc.size == 1 || off % 4 == 0

/-- The reserved set RSV of R73. -/
def reservedByte (x : Byte) : Bool :=
  x == 0x7E || x == 0x7D || x == 0x11 || x == 0x13

/-- The reserved addresses of R51: 0x0003C to 0x0FFFF, 0x30000 to 0x3FFFF, 0x80000 to 0xFFFFF. -/
def reservedAddr (a : Nat) : Bool :=
  (0x3C ≤ a && a < 0x10000) || (0x30000 ≤ a && a < 0x40000) || 0x80000 ≤ a

/-- R47, R48 for an address outside the windows: the register block takes aligned 4-byte accesses only; a
reserved range takes 1-byte accesses too (DEDUCED, assumption 11). -/
def reservedAdmits (a : Nat) (acc : WinAccess) : Bool :=
  acc.alignedAt a && (0x100 ≤ a || acc.size == 4)

/-- The check: operands a row admits. -/
def WellFormed : Instr → Bool
  | .nop _ => true
  | .encode _ => true
  | .decode _ => true
  | .rsvdOp _ => true
  | .rxSeekDelim => true
  | .rxSeekDiscard b => b != 0x7E
  | .rxLenDelim => true
  | .rxLenEsc => true
  | .rxLenData b => b != 0x7E && b != 0x7D
  | .rxLenEscDelim => true
  | .rxLenEscData b => b != 0x7E
  | .rxBodyDelim => true
  | .rxBodyEsc => true
  | .rxBodyData b => b != 0x7E && b != 0x7D
  | .rxBodyEscDelim => true
  | .rxBodyEscData b => b != 0x7E
  | .rxEmpty e => e.reading
  | .txEsc7E => true
  | .txEsc7D => true
  | .txEsc11 => true
  | .txEsc13 => true
  | .txPlain x => !reservedByte x
  | .ftTxRequest => true
  | .ftRxIndication => true
  | .ftNoValidFrame => true
  | .regCmd _ => true
  | .regStatus _ => true
  | .regIntEn _ => true
  | .regRxPolls _ => true
  | .regSeekLimit _ => true
  | .regEncFrameId _ => true
  | .regEncAddr16 _ => true
  | .regEncAddr64Lo _ => true
  | .regEncAddr64Hi _ => true
  | .regEncPayloadSize _ => true
  | .regEncLength _ => true
  | .regDecKind _ => true
  | .regDecLen _ => true
  | .regDecFtype _ => true
  | .regDecDiscards _ => true
  | .winRxBuf off acc => acc.alignedAt off.toNat
  | .winTxPayload off acc => acc.alignedAt off.toNat
  | .winTxOut off acc => acc.alignedAt off.toNat
  | .reservedSpace a acc => reservedAddr a.toNat && reservedAdmits a.toNat acc

end Sys2Proof
end

