-- ==== Sys2Proof/Decode.lean ====
section
/-! DEFINITION. Decoding: the row of spec/opcode_table.json an input word belongs to, total, rejecting by name;
then the encoder, written from the same tables; then the table's own numbering of its words. -/

namespace Sys2Proof

/-- Why a word is no row's. -/
inductive Reject where
  /-- R49: the access is outside the interface contract -/
  | notAdmitted
  /-- no row of its format has the word: an RXBYTE or RXPOLL word whose state does not poll (R111), or a
  content byte that is no frame type the spec names (R90) -/
  | noRow
deriving DecidableEq, Repr

/-- What decoding answers. -/
inductive Decoded where
  | row (i : Instr)
  | reject (r : Reject)
deriving DecidableEq, Repr

/-- R15: the code STATUS.ENGINE_STATE reports. -/
def Est.code : Est → Nat
  | .idle => 0
  | .encRun => 1
  | .seek => 2
  | .len => 3
  | .lenEsc => 4
  | .body => 5
  | .bodyEsc => 6

/-- The state with a code of R15. -/
def Est.ofCode : Nat → Option Est
  | 0 => some .idle
  | 1 => some .encRun
  | 2 => some .seek
  | 3 => some .len
  | 4 => some .lenEsc
  | 5 => some .body
  | 6 => some .bodyEsc
  | _ => none

/-- Glossary: the delimiter. -/
def delimiter : Byte := 0x7E

/-- Glossary: the escape byte. -/
def escapeByte : Byte := 0x7D

/-- R90: the transmit-request type, the encoder's only output type (R70). -/
def typeTxRequest : Byte := 0x10

/-- R90: the receive-indication type. -/
def typeRxIndication : Byte := 0x90

/-- R79: the reserved type "no valid frame". -/
def typeNoValidFrame : Byte := 0x00

/-- R84: OP is v[1:0]; v[31:2] selects nothing. -/
def decodeCmd (v : Word) : Instr :=
  let ign : BitVec 30 := BitVec.ofNat 30 (v.toNat / 4)
  match v.toNat % 4 with
  | 0 => .nop ign
  | 1 => .encode ign
  | 2 => .decode ign
  | _ => .rsvdOp ign

/-- R82: the class of a raw byte in a reading state, the first matching row. -/
def decodeRx : Est → Byte → Option Instr
  | .idle, _ => none
  | .encRun, _ => none
  | .seek, b => some (if b = delimiter then .rxSeekDelim else .rxSeekDiscard b)
  | .len, b =>
    some (if b = delimiter then .rxLenDelim else if b = escapeByte then .rxLenEsc else .rxLenData b)
  | .lenEsc, b => some (if b = delimiter then .rxLenEscDelim else .rxLenEscData b)
  | .body, b =>
    some (if b = delimiter then .rxBodyDelim else if b = escapeByte then .rxBodyEsc else .rxBodyData b)
  | .bodyEsc, b => some (if b = delimiter then .rxBodyEscDelim else .rxBodyEscData b)

/-- R83: the class of a logical byte at the escape stage. -/
def decodeTx (x : Byte) : Instr :=
  if x = 0x7E then .txEsc7E
  else if x = 0x7D then .txEsc7D
  else if x = 0x11 then .txEsc11
  else if x = 0x13 then .txEsc13
  else .txPlain x

/-- R90: the frame types the spec names. -/
def decodeType (x : Byte) : Option Instr :=
  if x = typeTxRequest then some .ftTxRequest
  else if x = typeRxIndication then some .ftRxIndication
  else if x = typeNoValidFrame then some .ftNoValidFrame
  else none

/-- R47: a register takes a 4-byte access at an address whose low two bits are zero. -/
def regAccess : Transaction → Option RegAccess
  | .read a n => if n = 4 ∧ a.toNat % 4 = 0 then some .read else none
  | .write a n d => if n = 4 ∧ a.toNat % 4 = 0 then some (.write d) else none

/-- R48: a window takes a 1-byte access anywhere, a 4-byte access at an address whose low two bits are zero. -/
def winAccess : Transaction → Option WinAccess
  | .read a n =>
    if n = 1 then some .read8 else if n = 4 ∧ a.toNat % 4 = 0 then some .read32 else none
  | .write a n d =>
    if n = 1 then some (.write8 (d.setWidth 8))
    else if n = 4 ∧ a.toNat % 4 = 0 then some (.write32 d) else none

/-- A register access to a reserved register address, as an access to reserved space. -/
def RegAccess.toWin : RegAccess → WinAccess
  | .read => .read32
  | .write v => .write32 v

/-- R19: the register at an address below 0x00100. -/
def regRow (a : Addr) (acc : RegAccess) : Instr :=
  match a.toNat with
  | 0x00 => .regCmd acc
  | 0x04 => .regStatus acc
  | 0x08 => .regIntEn acc
  | 0x0C => .regRxPolls acc
  | 0x10 => .regSeekLimit acc
  | 0x14 => .regEncFrameId acc
  | 0x18 => .regEncAddr16 acc
  | 0x1C => .regEncAddr64Lo acc
  | 0x20 => .regEncAddr64Hi acc
  | 0x24 => .regEncPayloadSize acc
  | 0x28 => .regEncLength acc
  | 0x2C => .regDecKind acc
  | 0x30 => .regDecLen acc
  | 0x34 => .regDecFtype acc
  | 0x38 => .regDecDiscards acc
  | _ => .reservedSpace a acc.toWin

/-- R51: the window or reserved range at an address from 0x00100 on. -/
def winRow (a : Addr) (acc : WinAccess) : Instr :=
  if 0x10000 ≤ a.toNat ∧ a.toNat < 0x20000 then .winRxBuf (a.setWidth 16) acc
  else if 0x20000 ≤ a.toNat ∧ a.toNat < 0x30000 then .winTxPayload (a.setWidth 16) acc
  else if 0x40000 ≤ a.toNat ∧ a.toNat < 0x80000 then .winTxOut (a.setWidth 18) acc
  else .reservedSpace a acc

/-- R140: the row of a host access; R49: every access not admitted is refused. -/
def decodeBus (t : Transaction) : Decoded :=
  if t.addr.toNat < 0x100 then
    match regAccess t with
    | some acc => .row (regRow t.addr acc)
    | none => .reject .notAdmitted
  else
    match winAccess t with
    | some acc => .row (winRow t.addr acc)
    | none => .reject .notAdmitted

/-- A row, or no row at all. -/
def Decoded.ofOption : Option Instr → Decoded
  | some i => .row i
  | none => .reject .noRow

/-- The decoder. -/
def decode : Code → Decoded
  | .cmd32 v => .row (decodeCmd v)
  | .rxByte key =>
    .ofOption ((Est.ofCode (key.toNat / 256)).bind fun e => decodeRx e (key.setWidth 8))
  | .rxPoll c =>
    .ofOption ((Est.ofCode c.toNat).bind fun e => if e.reading then some (.rxEmpty e) else none)
  | .txByte x => .row (decodeTx x)
  | .fType x => .ofOption (decodeType x)
  | .bus t => decodeBus t

/-! The encoder. -/

/-- R84: {ign, op}. -/
def cmdCode (ign : BitVec 30) (op : Nat) : Code :=
  .cmd32 (BitVec.ofNat 32 (4 * ign.toNat + op))

/-- R82: {code of est, b}. -/
def rxCode (e : Est) (b : Byte) : Code :=
  .rxByte (BitVec.ofNat 11 (256 * e.code + b.toNat))

/-- R91: the transaction of a register access. -/
def regCode (a : Addr) : RegAccess → Code
  | .read => .bus (.read a 4)
  | .write v => .bus (.write a 4 v)

/-- R91: the transaction of a window access. -/
def winCode (a : Addr) : WinAccess → Code
  | .read8 => .bus (.read a 1)
  | .read32 => .bus (.read a 4)
  | .write8 v => .bus (.write a 1 (v.setWidth 32))
  | .write32 v => .bus (.write a 4 v)

/-- The encoder: the input word of a row with its operands. -/
def encode : Instr → Code
  | .nop ign => cmdCode ign 0
  | .encode ign => cmdCode ign 1
  | .decode ign => cmdCode ign 2
  | .rsvdOp ign => cmdCode ign 3
  | .rxSeekDelim => rxCode .seek delimiter
  | .rxSeekDiscard b => rxCode .seek b
  | .rxLenDelim => rxCode .len delimiter
  | .rxLenEsc => rxCode .len escapeByte
  | .rxLenData b => rxCode .len b
  | .rxLenEscDelim => rxCode .lenEsc delimiter
  | .rxLenEscData b => rxCode .lenEsc b
  | .rxBodyDelim => rxCode .body delimiter
  | .rxBodyEsc => rxCode .body escapeByte
  | .rxBodyData b => rxCode .body b
  | .rxBodyEscDelim => rxCode .bodyEsc delimiter
  | .rxBodyEscData b => rxCode .bodyEsc b
  | .rxEmpty e => .rxPoll (BitVec.ofNat 3 e.code)
  | .txEsc7E => .txByte 0x7E
  | .txEsc7D => .txByte 0x7D
  | .txEsc11 => .txByte 0x11
  | .txEsc13 => .txByte 0x13
  | .txPlain x => .txByte x
  | .ftTxRequest => .fType typeTxRequest
  | .ftRxIndication => .fType typeRxIndication
  | .ftNoValidFrame => .fType typeNoValidFrame
  | .regCmd acc => regCode 0x00000 acc
  | .regStatus acc => regCode 0x00004 acc
  | .regIntEn acc => regCode 0x00008 acc
  | .regRxPolls acc => regCode 0x0000C acc
  | .regSeekLimit acc => regCode 0x00010 acc
  | .regEncFrameId acc => regCode 0x00014 acc
  | .regEncAddr16 acc => regCode 0x00018 acc
  | .regEncAddr64Lo acc => regCode 0x0001C acc
  | .regEncAddr64Hi acc => regCode 0x00020 acc
  | .regEncPayloadSize acc => regCode 0x00024 acc
  | .regEncLength acc => regCode 0x00028 acc
  | .regDecKind acc => regCode 0x0002C acc
  | .regDecLen acc => regCode 0x00030 acc
  | .regDecFtype acc => regCode 0x00034 acc
  | .regDecDiscards acc => regCode 0x00038 acc
  | .winRxBuf off acc => winCode (BitVec.ofNat 20 (0x10000 + off.toNat)) acc
  | .winTxPayload off acc => winCode (BitVec.ofNat 20 (0x20000 + off.toNat)) acc
  | .winTxOut off acc => winCode (BitVec.ofNat 20 (0x40000 + off.toNat)) acc
  | .reservedSpace a acc => winCode a acc

/-! The table's own words. The table numbers the words of each format from bit 0 and does not say which format a
word is of, so the number of bits it gives the row picks the format (assumption 10). -/

/-- A 20-bit address as a whole access: the table gives an address row no direction and no size; a read, of
4 bytes where the address is aligned and of 1 byte elsewhere. -/
def tableRead (a : Addr) : Transaction :=
  .read a (if a.toNat % 4 = 0 then 4 else 1)

/-- An 8-bit table word: an escaped byte (TXBYTE) or a named frame type (FTYPE), which fix all 8 bits, before a
command (CMD32), which fixes two. -/
def tableByte (w : Nat) : Code :=
  if w = 0x7E ∨ w = 0x7D ∨ w = 0x11 ∨ w = 0x13 then .txByte (BitVec.ofNat 8 w)
  else if w = 0x10 ∨ w = 0x90 ∨ w = 0x00 then .fType (BitVec.ofNat 8 w)
  else .cmd32 (BitVec.ofNat 32 w)

/-- The input word a table word stands for: 8 bits as `tableByte`, 16 bits an RXBYTE key, 24 bits a BUSADDR
address, 32 bits a CMD32 command. -/
def tableCode (nbits w : Nat) : Option Code :=
  if 2 ^ nbits ≤ w then none
  else if nbits = 8 then some (tableByte w)
  else if nbits = 16 then (if w < 2 ^ 11 then some (.rxByte (BitVec.ofNat 11 w)) else none)
  else if nbits = 24 then (if w < 2 ^ 20 then some (.bus (tableRead (BitVec.ofNat 20 w))) else none)
  else if nbits = 32 then some (.cmd32 (BitVec.ofNat 32 w))
  else none

/-- The instruction the decoder reads from a table word. -/
def decodeTableWord (nbits w : Nat) : Option Instr :=
  match tableCode nbits w with
  | none => none
  | some c =>
    match decode c with
    | .row i => some i
    | .reject _ => none

end Sys2Proof
end

