-- ==== Sys2Proof/Machine/State.lean ====
section
/-! DEFINITION. The state of FRAMECODEC: the complete vector of spec 10_state.md R44 as plain data, beside it the
configuration (R6) and the model's own fields (the schedule, the Source's script, the read data). -/

namespace Sys2Proof.Machine

/-- The result kinds of R31. DEC_KIND's code 7 is never produced (R86): it has no constructor. -/
inductive DecKind where
  | none | ok | noData | framing | checksum | oversize | seekLimit
deriving DecidableEq, Repr

/-- The command-error causes of R162. Codes 5 to 15 are never produced: they have no constructor. -/
inductive ErrCause where
  | none | busyCmd | rsvdOp | encSize | busyWrite
deriving DecidableEq, Repr

/-- What the Source answers a poll (R37). -/
inductive Answer where
  | byte (b : Byte)
  | empty
deriving DecidableEq, Repr

/-- One event of the one total order of R59. -/
inductive Event where
  /-- a Host access (R46) -/
  | access (t : Transaction)
  /-- one Engine step, where one is enabled (R96, R111) -/
  | engine
  /-- the escape stage of a running ENCODE escapes one logical byte ahead of its completion step: an
  implementation that writes TX_OUT byte by byte (D9, R57; assumption 9) -/
  | escape
  /-- the `rst` event (R39, R180) -/
  | rst
deriving DecidableEq, Repr

/-- The bytes of the three buffers that were written since power-up, each at its host address (R51), in one
canonical form: addresses strictly rising. An unlisted address has no value (assumption 5). -/
abbrev Memory := List Host.Cell

/-- The canonical form. An unlisted address reads as no value, so no entry can equal what it reads as. -/
abbrev Memory.wf (m : Memory) : Prop := m.Pairwise fun c d => c.1 < d.1

/-- Why a step stops with a fault: never. The block raises no trap or exception (R160): no access faults (R66),
and every error is a value in a register. -/
inductive Fault where
deriving DecidableEq, Repr

/-- Why a step is refused. -/
inductive Refusal where
  /-- raised by an arm of `exec` without a meaning; safe -/
  | notModelled (mnemonic : String)
  /-- raised by a host access outside the interface contract (R49: "a model refuses it"); safe: the spec gives it
  no outcome -/
  | notAdmitted
  /-- raised by an engine row offered in a state in which that step is not enabled (R111, R96; assumption 12); safe:
  no step of the block is such a step -/
  | notEnabled
  /-- raised by an input word that is in no row of its format (R82, R90; assumption 19); safe: no step fetches one -/
  | noRow
deriving DecidableEq, Repr

/-- The state. -/
structure State where
  -- the engine and the decoder's datapath (R15, R16)
  est : Est
  didx : Half
  dlen : Half
  dsum : Byte
  dwait : Half
  -- the stored fields of STATUS (R21)
  encDone : Bool
  decDone : Bool
  cmdErr : Bool
  errCause : ErrCause
  -- the host registers (R22 to R34)
  intEn : BitVec 3
  rxPolls : Half
  seekLimit : Half
  encFrameId : Byte
  encAddr16 : Half
  encAddr64Lo : Word
  encAddr64Hi : Word
  encPayloadSize : Half
  encLength : Word
  decKind : DecKind
  decLen : Word
  decFtype : Byte
  decDiscards : Word
  -- the buffers TX_PAYLOAD, TX_OUT, RX_BUF (R36)
  mem : Memory
  -- configuration (R6, R43), written by nothing
  params : Params
  -- the MODEL's own fields: the events to come (assumption 1)
  events : List Event
  -- the Source's answers to come (assumption 2)
  source : List Answer
  -- the data of the last admitted read (R91; assumption 3)
  rdata : Word
  -- how many free values were drawn (assumption 4)
  free : Nat
  -- logical bytes of the running ENCODE escaped ahead of its completion (assumption 9)
  escIdx : Nat
deriving DecidableEq, Repr

/-- The machine right after power-up with the reference parameters: R180's values, no buffer byte written (R181),
nothing scheduled (assumption 18 for the model's own fields). -/
def State.reset : State where
  est := .idle
  didx := 0
  dlen := 0
  dsum := 0
  dwait := 0
  encDone := false
  decDone := false
  cmdErr := false
  errCause := .none
  intEn := 0
  rxPolls := 1
  seekLimit := 0
  encFrameId := 0
  encAddr16 := 0
  encAddr64Lo := 0
  encAddr64Hi := 0
  encPayloadSize := 0
  encLength := 0
  decKind := .none
  decLen := 0
  decFtype := 0
  decDiscards := 0
  mem := []
  params := Params.reference
  events := []
  source := []
  rdata := 0
  free := 0
  escIdx := 0

end Sys2Proof.Machine
end

