-- ==== Sys2Proof/Machine/Ops.lean ====
section
/-! DEFINITION. The named operations over memory, the buffers, the read-data port and reset. Each host register
has one home, a field of State; each buffer byte one home, the memory cell at its host address. -/

namespace Sys2Proof.Machine

/-! Memory: one byte at an address. -/

/-- The byte at an address, if it was written since power-up. -/
def Memory.read : Memory → Nat → Option Byte
  | [], _ => none
  | c :: m, a => if c.1 = a then some c.2 else Memory.read m a

/-- Write one byte, keeping the addresses strictly rising. -/
def Memory.write : Memory → Nat → Byte → Memory
  | [], a, v => [(a, v)]
  | c :: m, a, v =>
    if a < c.1 then (a, v) :: c :: m
    else if a = c.1 then (a, v) :: m
    else c :: Memory.write m a v

/-! The buffers (R36). -/

/-- R51: the window of a buffer begins here. -/
def Buf.base : Buf → Nat
  | .rxBuf => 0x10000
  | .txPayload => 0x20000
  | .txOut => 0x40000

/-- R36: the size of a buffer is its parameter. -/
def Buf.size (p : Params) : Buf → Nat
  | .rxBuf => p.rxCap
  | .txPayload => p.txPayloadCap
  | .txOut => p.txOutCap

/-- The byte of a buffer at an index: what was last written there, else the free value it holds since power-up
(R181; DESIGN CHOICE of form, assumption 5). -/
def State.bufByte (s : State) (b : Buf) (i : Nat) : Byte :=
  (Memory.read s.mem (Buf.base b + i)).getD (Config.powerUpByte (Buf.base b + i))

/-- `MemRead(M, i, n)` of R10. -/
def State.bufBytes (s : State) (b : Buf) (i n : Nat) : List Byte :=
  (List.range n).map fun k => s.bufByte b (i + k)

/-- `MemWrite(M, i, len, l)` of R10 on the memory: byte after byte from index `i`; an index at or beyond the
buffer's size is written by nothing (R52 for the Host; for the Engine no such index arises, R104, R121,
assumption 14). -/
def Memory.store (p : Params) (b : Buf) (m : Memory) : Nat → List Byte → Memory
  | _, [] => m
  | i, v :: l =>
    Memory.store p b (if i < Buf.size p b then Memory.write m (Buf.base b + i) v else m) (i + 1) l

/-- `MemWrite(M, i, len, l)` of R10. -/
def State.putBytes (s : State) (b : Buf) (i : Nat) (l : List Byte) : State :=
  { s with mem := Memory.store s.params b s.mem i l }

/-! The read-data port (R91). -/

/-- A 4-byte read answers `v`. It changes nothing else (R55). -/
def State.answer32 (s : State) (v : Word) : State := { s with rdata := v }

/-- A 1-byte read answers `v`, zero-extended on the port (assumption 3). -/
def State.answer8 (s : State) (v : Byte) : State := { s with rdata := v.setWidth 32 }

/-- R60: a read of this buffer has an unspecified value now. -/
def State.openBuf (s : State) : Buf → Bool
  | .txOut => s.est == .encRun
  | .rxBuf => s.est.reading
  | .txPayload => false

/-- The byte a window read sees at index `i` of a buffer, being byte `j` of the access: 0x00 at or beyond the size
(R52), a free value where the read is unspecified (R60, assumption 4), else the buffer's byte. -/
def State.seenByte (s : State) (b : Buf) (i j : Nat) : Byte :=
  if i < Buf.size s.params b then
    if s.openBuf b then (Config.unspecifiedRead s.free).extractLsb' (8 * j) 8 else s.bufByte b i
  else 0x00

/-- R50: the 4-byte word with `b0` in bits [7:0]. -/
def pack4 (b0 b1 b2 b3 : Byte) : Word := b3 ++ b2 ++ b1 ++ b0

/-- R50: the bytes of a 4-byte word, lowest first. -/
def unpack4 (v : Word) : List Byte :=
  [v.extractLsb' 0 8, v.extractLsb' 8 8, v.extractLsb' 16 8, v.extractLsb' 24 8]

/-- A read that drew a free value uses up its number, so that the next one may differ (R60). -/
def State.drawIf (s : State) (c : Bool) : State :=
  { s with free := if c then s.free + 1 else s.free }

/-- R143: a 1-byte window read. -/
def State.readWin8 (s : State) (b : Buf) (i : Nat) : State :=
  (s.answer8 (s.seenByte b i 0)).drawIf (s.openBuf b)

/-- R143: a 4-byte window read. -/
def State.readWin32 (s : State) (b : Buf) (i : Nat) : State :=
  (s.answer32 (pack4 (s.seenByte b i 0) (s.seenByte b (i + 1) 1) (s.seenByte b (i + 2) 2)
    (s.seenByte b (i + 3) 3))).drawIf (s.openBuf b)

/-- R143: a read of a window. -/
def State.readWin (s : State) (b : Buf) (i : Nat) (wide : Bool) : State :=
  if wide then s.readWin32 b i else s.readWin8 b i

/-! Reset. -/

/-- R180: the `rst` event. Every piece of the block's state but the buffers takes its reset value; no buffer byte
changes (R181), the Source and the schedule are not the block's (R182, assumption 15). -/
def State.rst (s : State) : State :=
  { s with
    est := .idle, didx := 0, dlen := 0, dsum := 0, dwait := 0,
    encDone := false, decDone := false, cmdErr := false, errCause := .none,
    intEn := 0, rxPolls := 1, seekLimit := 0,
    encFrameId := 0, encAddr16 := 0, encAddr64Lo := 0, encAddr64Hi := 0, encPayloadSize := 0,
    encLength := 0, decKind := .none, decLen := 0, decFtype := 0, decDiscards := 0,
    escIdx := 0 }

end Sys2Proof.Machine
end

