-- ==== Sys2Proof/Machine/Flags.lean ====
section
/-! DEFINITION. The flags (spec 10_state.md R21, R41): the STATUS word, the command-error record, write-one-to-clear,
and the interrupt output. -/

namespace Sys2Proof.Machine

/-- R21: BUSY is 1 exactly when `est` is not IDLE. -/
def State.busy (s : State) : Bool := s.est != .idle

/-- R162: the code STATUS.ERR_CAUSE reports. -/
def ErrCause.code : ErrCause → Nat
  | .none => 0
  | .busyCmd => 1
  | .rsvdOp => 2
  | .encSize => 3
  | .busyWrite => 4

/-- One bit as a number. -/
def bitNat (b : Bool) : Nat := if b then 1 else 0

/-- R141: `{20'b0, ERR_CAUSE[3:0], code(est)[3:0], CMD_ERR, DEC_DONE, ENC_DONE, (est != IDLE)}`. -/
def State.statusWord (s : State) : Word :=
  BitVec.ofNat 20 0 ++ BitVec.ofNat 4 (ErrCause.code s.errCause) ++ BitVec.ofNat 4 s.est.code ++
    BitVec.ofBool s.cmdErr ++ BitVec.ofBool s.decDone ++ BitVec.ofBool s.encDone ++ BitVec.ofBool s.busy

/-- R161: record a command error. It changes nothing else; the last cause wins (R178). The block's only way to
report a rejected access: it takes no exception (R160). -/
def State.setErr (s : State) (c : ErrCause) : State := { s with cmdErr := true, errCause := c }

/-- R149: a STATUS write clears the flags whose bit is 1 (W1C); bit 3 clears ERR_CAUSE too. -/
def State.clearFlags (s : State) (v : Word) : State :=
  { s with
    encDone := s.encDone && !v.getLsbD 1
    decDone := s.decDone && !v.getLsbD 2
    cmdErr := s.cmdErr && !v.getLsbD 3
    errCause := if v.getLsbD 3 then .none else s.errCause }

/-- R38: the interrupt output, a level. -/
def State.irq (s : State) : Bool :=
  (s.encDone && s.intEn.getLsbD 0) || (s.decDone && s.intEn.getLsbD 1) || (s.cmdErr && s.intEn.getLsbD 2)

/-- R146: a write to an engine input while an operation runs is dropped and recorded; else it is made. -/
def State.inputWrite (s : State) (written : State) : State :=
  if s.busy then s.setErr .busyWrite else written

end Sys2Proof.Machine
end

