-- ==== Sys2Proof/Machine/Operands.lean ====
section
/-! DEFINITION. Operands: what the registers hold as operands of an operation (spec 30_encoding.md R85), the fields of
register writes, the result codes of a decode, and the alignment of window accesses. -/

namespace Sys2Proof.Machine

/-- R85: `addr64 = {ENC_ADDR64_HI, ENC_ADDR64_LO}`. -/
def State.addr64 (s : State) : BitVec 64 := s.encAddr64Hi ++ s.encAddr64Lo

/-- R85: the payload byte count `n`. -/
def State.payloadSize (s : State) : Nat := s.encPayloadSize.toNat

/-- R85: the poll budget of one raw read. -/
def State.polls (s : State) : Nat := s.rxPolls.toNat

/-- R85: the discard limit. -/
def State.limit (s : State) : Nat := s.seekLimit.toNat

/-- R96: the eight bytes of a 64-bit value, most significant first. -/
def be64 (v : BitVec 64) : List Byte :=
  [v.extractLsb' 56 8, v.extractLsb' 48 8, v.extractLsb' 40 8, v.extractLsb' 32 8,
   v.extractLsb' 24 8, v.extractLsb' 16 8, v.extractLsb' 8 8, v.extractLsb' 0 8]

/-- R96: the two bytes of a 16-bit value, most significant first. -/
def be16 (v : Half) : List Byte := [v.extractLsb' 8 8, v.extractLsb' 0 8]

/-- R8, R72: the sum of a byte sequence modulo 256. -/
def sum8 : List Byte → Byte
  | [] => 0
  | b :: l => b + sum8 l

/-- R23, R150: RX_POLLS cannot hold 0; a write of 0 stores 1. -/
def legalPolls (v : Word) : Half :=
  let p : Half := v.setWidth 16
  if p = 0 then 1 else p

/-- R31, R126: the code DEC_KIND reports. -/
def DecKind.code : DecKind → Nat
  | .none => 0
  | .ok => 1
  | .noData => 2
  | .framing => 3
  | .checksum => 4
  | .oversize => 5
  | .seekLimit => 6

/-- R9: the 32-bit two's-complement pattern of an integer. -/
def s32 (k : Int) : Word := BitVec.ofInt 32 k

/-- R32, R126: what DEC_LEN takes when a decode of content length `len` ends with a kind. -/
def DecKind.length (len : Half) : DecKind → Word
  | .none => s32 0
  | .ok => len.setWidth 32
  | .noData => s32 0
  | .framing => s32 (-1)
  | .checksum => s32 (-2)
  | .oversize => s32 (-3)
  | .seekLimit => s32 0

/-- R48: a window takes 1 byte anywhere, 4 bytes at an index whose low two bits are zero. -/
def winAligned (i : Nat) : WinAccess → Bool
  | .read8 => true
  | .write8 _ => true
  | .read32 => i % 4 == 0
  | .write32 _ => i % 4 == 0

/-- R47: the register block takes 4-byte accesses only; a reserved range takes 1-byte ones too (DEDUCED,
assumption 11). -/
def reservedTakes (a : Nat) (acc : WinAccess) : Bool :=
  winAligned a acc &&
    match acc with
    | .read8 => 0x100 ≤ a
    | .write8 _ => 0x100 ≤ a
    | .read32 => true
    | .write32 _ => true

end Sys2Proof.Machine
end

