-- ==== Sys2Proof/Machine/Frame.lean ====
section
/-! DEFINITION. The transmit-request frame (spec 30_encoding.md R67 to R75, 40_encoder.md R97 to R103) as byte
sequences: content, checksum, logical frame, escape code, wire frame. -/

namespace Sys2Proof.Machine

/-- R72: the checksum of a content sequence; the subtraction never borrows. -/
def cksum (c : List Byte) : Byte := 0xFF - sum8 c

/-- R73: the reserved set RSV. -/
def inRSV (x : Byte) : Bool := x == 0x7E || x == 0x7D || x == 0x11 || x == 0x13

/-- R77: the XOR that takes a reserved byte to the second byte of its pair, and back. -/
def flip20 (x : Byte) : Byte := x ^^^ 0x20

/-- R73: the wire form of one logical byte. -/
def esc (x : Byte) : List Byte := if inRSV x then [escapeByte, flip20 x] else [x]

/-- R98: the content C of the frame the registers and TX_PAYLOAD describe. -/
def State.content (s : State) : List Byte :=
  [typeTxRequest, s.encFrameId] ++ be64 s.addr64 ++ be16 s.encAddr16 ++ [0x00, 0x00] ++
    s.bufBytes .txPayload 0 s.payloadSize

/-- R97: the content length `L = 14 + n` as the 16-bit length field. -/
def State.lengthField (s : State) : Half := BitVec.ofNat 16 (14 + s.payloadSize)

/-- R100: the logical frame S. -/
def State.logicalFrame (s : State) : List Byte :=
  be16 s.lengthField ++ s.content ++ [cksum s.content]

/-- R74: the wire form of a logical frame: the delimiter, then each byte escaped. -/
def wireOf (l : List Byte) : List Byte := delimiter :: l.flatMap esc

/-- R101: the wire frame W. -/
def State.wire (s : State) : List Byte := wireOf s.logicalFrame

end Sys2Proof.Machine
end

