-- ==== Sys2Proof/Machine/Decoder.lean ====
section
/-! DEFINITION. The decoder (spec 41_decoder.md): acceptance of DECODE, the shared operations of a poll step, the
end of a decode, and the meanings of the RXBYTE and RXPOLL rows. -/

namespace Sys2Proof.Machine

/-- R110: DECODE acceptance, with the engine IDLE. -/
def State.startDecode (s : State) : State :=
  { s with est := .seek, didx := 0, dlen := 0, dsum := 0, dwait := 0, decDiscards := 0 }

/-- R126: the end of a decode, the one way its result is reported. -/
def State.finish (s : State) (k : DecKind) : State :=
  { s with
    decKind := k
    decLen := DecKind.length s.dlen k
    decFtype := if k = .ok then s.bufByte .rxBuf 0 else typeNoValidFrame
    decDone := true
    est := .idle }

/-- R121: the capacity check after the second length byte. -/
def State.checkCapacity (s : State) : State :=
  if s.params.rxCap < s.dlen.toNat + 1 then s.finish .oversize
  else { s with est := .body, didx := 0, dsum := 0 }

/-- R120: accept a logical length byte. -/
def State.acceptLen (s : State) (v : Byte) : State :=
  if s.didx = 0 then { s with dlen := v ++ s.dlen.extractLsb' 0 8, didx := 1, est := .len }
  else State.checkCapacity { s with dlen := s.dlen.extractLsb' 8 8 ++ v }

/-- R122: accept a logical content byte. -/
def State.acceptContent (s : State) (v : Byte) : State :=
  { s.putBytes .rxBuf s.didx.toNat [v] with dsum := s.dsum + v, didx := s.didx + 1, est := .body }

/-- R123: accept the checksum byte. -/
def State.acceptChecksum (s : State) (v : Byte) : State :=
  (s.putBytes .rxBuf s.dlen.toNat [v]).finish (if v = 0xFF - s.dsum then .ok else .checksum)

/-- R124, R125: a logical byte of the body is content while `didx < dlen`, then the checksum. -/
def State.acceptBody (s : State) (v : Byte) : State :=
  if s.didx < s.dlen then s.acceptContent v else s.acceptChecksum v

/-- R115: a byte discarded while seeking. -/
def State.discard (s : State) : State :=
  let s' := { s with decDiscards := s.decDiscards + 1 }
  if s.limit ≠ 0 ∧ s.limit ≤ (s.decDiscards + 1).toNat then s'.finish .seekLimit
  else { s' with est := .seek }

/-- R113: an Empty answer counts, and times the read out on the RX_POLLS-th in a row. -/
def State.emptyPoll (s : State) : State :=
  if s.polls ≤ s.dwait.toNat + 1 then s.finish .noData else { s with dwait := s.dwait + 1 }

/-- R112: a `Byte` answer ends the wait. -/
def State.gotByte (s : State) : State := { s with dwait := 0 }

/-- The poll steps of one state are enabled in that state only (R111, R82; assumption 12). -/
def pollIn (e : Est) (s t : State) : Host.Outcome State Fault Refusal :=
  if s.est = e then .next t else .refused .notEnabled

/-- RX_SEEK_DELIM (R115). -/
def execRxSeekDelim (s : State) : Host.Outcome State Fault Refusal :=
  pollIn .seek s { s.gotByte with est := .len, didx := 0 }

/-- RX_SEEK_DISCARD (R115). The byte is lost: no rule reads it. -/
def execRxSeekDiscard (_b : Byte) (s : State) : Host.Outcome State Fault Refusal :=
  pollIn .seek s s.gotByte.discard

/-- RX_LEN_DELIM (R116). -/
def execRxLenDelim (s : State) : Host.Outcome State Fault Refusal :=
  pollIn .len s (s.gotByte.finish .framing)

/-- RX_LEN_ESC (R117). -/
def execRxLenEsc (s : State) : Host.Outcome State Fault Refusal :=
  pollIn .len s { s.gotByte with est := .lenEsc }

/-- RX_LEN_DATA (R118). -/
def execRxLenData (b : Byte) (s : State) : Host.Outcome State Fault Refusal :=
  pollIn .len s (s.gotByte.acceptLen b)

/-- RX_LEN_ESC_DELIM (R119, conflict C1). -/
def execRxLenEscDelim (s : State) : Host.Outcome State Fault Refusal :=
  pollIn .lenEsc s (s.gotByte.finish .framing)

/-- RX_LEN_ESC_DATA (R119). -/
def execRxLenEscData (b : Byte) (s : State) : Host.Outcome State Fault Refusal :=
  pollIn .lenEsc s (s.gotByte.acceptLen (flip20 b))

/-- RX_BODY_DELIM (R124). -/
def execRxBodyDelim (s : State) : Host.Outcome State Fault Refusal :=
  pollIn .body s (s.gotByte.finish .framing)

/-- RX_BODY_ESC (R124). -/
def execRxBodyEsc (s : State) : Host.Outcome State Fault Refusal :=
  pollIn .body s { s.gotByte with est := .bodyEsc }

/-- RX_BODY_DATA (R124). -/
def execRxBodyData (b : Byte) (s : State) : Host.Outcome State Fault Refusal :=
  pollIn .body s (s.gotByte.acceptBody b)

/-- RX_BODY_ESC_DELIM (R125, conflict C1). -/
def execRxBodyEscDelim (s : State) : Host.Outcome State Fault Refusal :=
  pollIn .bodyEsc s (s.gotByte.finish .framing)

/-- RX_BODY_ESC_DATA (R125). -/
def execRxBodyEscData (b : Byte) (s : State) : Host.Outcome State Fault Refusal :=
  pollIn .bodyEsc s (s.gotByte.acceptBody (flip20 b))

/-- RX_EMPTY (R113), in any reading state. -/
def execRxEmpty (e : Est) (s : State) : Host.Outcome State Fault Refusal :=
  if e.reading then pollIn e s s.emptyPoll else .refused .notEnabled

end Sys2Proof.Machine
end

