-- ==== Sys2Proof/Machine/Encoder.lean ====
section
/-! DEFINITION. The encoder: acceptance of ENCODE (spec 42_host_ops.md R145), its completion step (40_encoder.md
R96), and the escape stage, whose five TXBYTE rows (30_encoding.md R83) are the meanings below. -/

namespace Sys2Proof.Machine

/-- R145: ENCODE acceptance, with the engine IDLE. -/
def State.startEncode (s : State) : State :=
  if s.params.txPayloadCap < s.payloadSize then { s.setErr .encSize with encLength := 0 }
  else { s with est := .encRun, escIdx := 0 }

/-- R96: the ENCODE completion step, one indivisible Engine step. -/
def State.completeEncode (s : State) : State :=
  { s.putBytes .txOut 0 s.wire with
    encLength := BitVec.ofNat 32 s.wire.length
    encDone := true
    est := .idle
    escIdx := 0 }

/-- The logical byte of S the escape stage takes next, while an ENCODE runs. -/
def State.escapeNext (s : State) : Option Byte :=
  if s.est = .encRun then s.logicalFrame[s.escIdx]? else none

/-- Where in TX_OUT the wire form of that byte begins: after the delimiter and the bytes escaped so far. -/
def State.cursor (s : State) : Nat :=
  (wireOf (s.logicalFrame.take s.escIdx)).length

/-- The escape stage writes the wire form `w` of the next logical byte to TX_OUT; the delimiter goes before the
first one (R74, R57; assumption 9). -/
def State.emit (s : State) (w : List Byte) : State :=
  { s.putBytes .txOut (if s.escIdx = 0 then 0 else s.cursor)
      (if s.escIdx = 0 then delimiter :: w else w) with
    escIdx := s.escIdx + 1 }

/-- The escape stage on the logical byte `x` with wire form `w`; enabled where `x` is the byte it takes next
(assumption 12). -/
def escapeStage (x : Byte) (w : List Byte) (s : State) : Host.Outcome State Fault Refusal :=
  if s.escapeNext = some x then .next (s.emit w) else .refused .notEnabled

/-- TX_ESC_7E (R83): 0x7E goes out as 7D 5E. -/
def execTxEsc7E (s : State) : Host.Outcome State Fault Refusal := escapeStage 0x7E [0x7D, 0x5E] s

/-- TX_ESC_7D (R83): 0x7D goes out as 7D 5D. -/
def execTxEsc7D (s : State) : Host.Outcome State Fault Refusal := escapeStage 0x7D [0x7D, 0x5D] s

/-- TX_ESC_11 (R83): 0x11 goes out as 7D 31. -/
def execTxEsc11 (s : State) : Host.Outcome State Fault Refusal := escapeStage 0x11 [0x7D, 0x31] s

/-- TX_ESC_13 (R83): 0x13 goes out as 7D 33. -/
def execTxEsc13 (s : State) : Host.Outcome State Fault Refusal := escapeStage 0x13 [0x7D, 0x33] s

/-- TX_PLAIN (R83): every other byte goes out as itself. -/
def execTxPlain (x : Byte) (s : State) : Host.Outcome State Fault Refusal := escapeStage x [x] s

end Sys2Proof.Machine
end

