-- ==== Sys2Proof/Machine/Command.lean ====
section
/-! DEFINITION. The commands (spec 42_host_ops.md R144 to R148): the CMD32 rows, and the CMD write that selects among
them. -/

namespace Sys2Proof.Machine

/-- R144: an ENCODE or DECODE while an operation runs is dropped and recorded. -/
def State.unlessBusy (s : State) (started : State) : State :=
  if s.busy then s.setErr .busyCmd else started

/-- R144: a CMD write, its checks in the rule's order. -/
def State.writeCmd (s : State) (v : Word) : State :=
  if v.toNat % 4 = 0 then s
  else if v.toNat % 4 = 3 then s.setErr .rsvdOp
  else if s.busy then s.setErr .busyCmd
  else if v.toNat % 4 = 1 then s.startEncode
  else s.startDecode

/-- NOP (R148): changes no state, in any `est`. -/
def execNop (_ign : BitVec 30) (s : State) : Host.Outcome State Fault Refusal := .next s

/-- ENCODE (R144, R145). -/
def execEncode (_ign : BitVec 30) (s : State) : Host.Outcome State Fault Refusal :=
  .next (s.unlessBusy s.startEncode)

/-- DECODE (R144, R110). -/
def execDecode (_ign : BitVec 30) (s : State) : Host.Outcome State Fault Refusal :=
  .next (s.unlessBusy s.startDecode)

/-- RSVD_OP (R147): starts nothing, whatever `est` is. -/
def execRsvdOp (_ign : BitVec 30) (s : State) : Host.Outcome State Fault Refusal :=
  .next (s.setErr .rsvdOp)

end Sys2Proof.Machine
end

