-- ==== Sys2Proof/Machine/Bus.lean ====
section
/-! DEFINITION. The host accesses (spec 42_host_ops.md R140 to R143, R149 to R153): the BUSADDR rows. A read changes
nothing but the read-data port (20_memory.md R55). -/

namespace Sys2Proof.Machine

/-- An access to a register: a read answers `v`, a write of `w` leaves `written w`. -/
def regOp (acc : RegAccess) (v : Word) (written : Word → State) (s : State) :
    Host.Outcome State Fault Refusal :=
  match acc with
  | .read => .next (s.answer32 v)
  | .write w => .next (written w)

/-- R152: an access to a register whose writes are ignored. -/
def readOnlyOp (acc : RegAccess) (v : Word) (s : State) : Host.Outcome State Fault Refusal :=
  regOp acc v (fun _ => s) s

/-- REG_CMD: reads 0 (R20); a write is a command (R144). -/
def execRegCmd (acc : RegAccess) (s : State) : Host.Outcome State Fault Refusal :=
  regOp acc 0 s.writeCmd s

/-- REG_STATUS: R141; W1C, R149. -/
def execRegStatus (acc : RegAccess) (s : State) : Host.Outcome State Fault Refusal :=
  regOp acc s.statusWord s.clearFlags s

/-- REG_INT_EN: R141; R153, in every `est`. -/
def execRegIntEn (acc : RegAccess) (s : State) : Host.Outcome State Fault Refusal :=
  regOp acc (s.intEn.setWidth 32) (fun w => { s with intEn := w.setWidth 3 }) s

/-- REG_RX_POLLS: R141; R150, R146. -/
def execRegRxPolls (acc : RegAccess) (s : State) : Host.Outcome State Fault Refusal :=
  regOp acc (s.rxPolls.setWidth 32) (fun w => s.inputWrite { s with rxPolls := legalPolls w }) s

/-- REG_SEEK_LIMIT: R141; R142, R146. -/
def execRegSeekLimit (acc : RegAccess) (s : State) : Host.Outcome State Fault Refusal :=
  regOp acc (s.seekLimit.setWidth 32) (fun w => s.inputWrite { s with seekLimit := w.setWidth 16 }) s

/-- REG_ENC_FRAME_ID: R141; R142, R146. -/
def execRegEncFrameId (acc : RegAccess) (s : State) : Host.Outcome State Fault Refusal :=
  regOp acc (s.encFrameId.setWidth 32) (fun w => s.inputWrite { s with encFrameId := w.setWidth 8 }) s

/-- REG_ENC_ADDR16: R141; R142, R146. -/
def execRegEncAddr16 (acc : RegAccess) (s : State) : Host.Outcome State Fault Refusal :=
  regOp acc (s.encAddr16.setWidth 32) (fun w => s.inputWrite { s with encAddr16 := w.setWidth 16 }) s

/-- REG_ENC_ADDR64_LO: R141; R142, R146. -/
def execRegEncAddr64Lo (acc : RegAccess) (s : State) : Host.Outcome State Fault Refusal :=
  regOp acc s.encAddr64Lo (fun w => s.inputWrite { s with encAddr64Lo := w }) s

/-- REG_ENC_ADDR64_HI: R141; R142, R146. -/
def execRegEncAddr64Hi (acc : RegAccess) (s : State) : Host.Outcome State Fault Refusal :=
  regOp acc s.encAddr64Hi (fun w => s.inputWrite { s with encAddr64Hi := w }) s

/-- REG_ENC_PAYLOAD_SIZE: R141; R142, R146. Every value is stored; the check is at the ENCODE (R145). -/
def execRegEncPayloadSize (acc : RegAccess) (s : State) : Host.Outcome State Fault Refusal :=
  regOp acc (s.encPayloadSize.setWidth 32)
    (fun w => s.inputWrite { s with encPayloadSize := w.setWidth 16 }) s

/-- REG_ENC_LENGTH: R141, unspecified while an ENCODE runs (R60); R152. -/
def execRegEncLength (acc : RegAccess) (s : State) : Host.Outcome State Fault Refusal :=
  match acc with
  | .read =>
    if s.est = .encRun then .next ((s.answer32 (Config.unspecifiedRead s.free)).drawIf true)
    else .next (s.answer32 s.encLength)
  | .write _ => .next s

/-- REG_DEC_KIND: R141; R152. -/
def execRegDecKind (acc : RegAccess) (s : State) : Host.Outcome State Fault Refusal :=
  readOnlyOp acc (BitVec.ofNat 32 (DecKind.code s.decKind)) s

/-- REG_DEC_LEN: R141; R152. -/
def execRegDecLen (acc : RegAccess) (s : State) : Host.Outcome State Fault Refusal :=
  readOnlyOp acc s.decLen s

/-- REG_DEC_FTYPE: R141; R152. -/
def execRegDecFtype (acc : RegAccess) (s : State) : Host.Outcome State Fault Refusal :=
  readOnlyOp acc (s.decFtype.setWidth 32) s

/-- REG_DEC_DISCARDS: R141, the live count; R152. -/
def execRegDecDiscards (acc : RegAccess) (s : State) : Host.Outcome State Fault Refusal :=
  readOnlyOp acc s.decDiscards s

/-- A window access R48 admits; R49 refuses any other. A read answers the buffer's bytes (R143), a write of bytes
`l` leaves `written l`. -/
def winOp (b : Buf) (i : Nat) (acc : WinAccess) (written : List Byte → State) (s : State) :
    Host.Outcome State Fault Refusal :=
  if winAligned i acc then
    match acc with
    | .read8 => .next (s.readWin b i false)
    | .read32 => .next (s.readWin b i true)
    | .write8 v => .next (written [v])
    | .write32 v => .next (written (unpack4 v))
  else .refused .notAdmitted

/-- WIN_RX_BUF: R143; writes ignored (R152). -/
def execWinRxBuf (off : BitVec 16) (acc : WinAccess) (s : State) : Host.Outcome State Fault Refusal :=
  winOp .rxBuf off.toNat acc (fun _ => s) s

/-- R151 and R146: a write at an index beyond TX_PAYLOAD is ignored; one within it is made, or dropped and recorded
while an operation runs. -/
def State.writePayload (s : State) (i : Nat) (l : List Byte) : State :=
  if i < s.params.txPayloadCap then s.inputWrite (s.putBytes .txPayload i l) else s

/-- WIN_TX_PAYLOAD: R143; R151, R146. -/
def execWinTxPayload (off : BitVec 16) (acc : WinAccess) (s : State) :
    Host.Outcome State Fault Refusal :=
  winOp .txPayload off.toNat acc (s.writePayload off.toNat) s

/-- WIN_TX_OUT: R143; writes ignored (R152). -/
def execWinTxOut (off : BitVec 18) (acc : WinAccess) (s : State) : Host.Outcome State Fault Refusal :=
  winOp .txOut off.toNat acc (fun _ => s) s

/-- RESERVED_SPACE: reads 0, writes ignored (R35, R52, R152). -/
def execReservedSpace (a : Addr) (acc : WinAccess) (s : State) : Host.Outcome State Fault Refusal :=
  if reservedTakes a.toNat acc then
    match acc with
    | .read8 => .next (s.answer8 0)
    | .read32 => .next (s.answer32 0)
    | .write8 _ => .next s
    | .write32 _ => .next s
  else .refused .notAdmitted

end Sys2Proof.Machine
end

