-- ==== Sys2Proof/Machine/FrameType.lean ====
section
/-! DEFINITION. The FTYPE rows: the first content byte C[0] of a frame being decoded, where it is a type the spec
names. The decoder does not branch on the type (spec 30_encoding.md R90), so each meaning is the poll step that
accepts that logical byte (assumption 8). -/

namespace Sys2Proof.Machine

/-- The next logical byte is the frame type: the first of at least one content byte (R70, R131). -/
def State.atFrameType (s : State) : Bool :=
  (s.est == .body || s.est == .bodyEsc) && s.didx == 0 && s.dlen != 0

/-- Accept the frame-type byte by the rule of every content byte (R122). -/
def acceptType (x : Byte) (s : State) : Host.Outcome State Fault Refusal :=
  if s.atFrameType then .next (s.gotByte.acceptContent x) else .refused .notEnabled

/-- FT_TX_REQUEST (R70, R90): type 0x10, the encoder's only output type. -/
def execFtTxRequest (s : State) : Host.Outcome State Fault Refusal := acceptType typeTxRequest s

/-- FT_RX_INDICATION (R90): type 0x90, decoded like any type. -/
def execFtRxIndication (s : State) : Host.Outcome State Fault Refusal := acceptType typeRxIndication s

/-- FT_NO_VALID_FRAME (R79): type 0x00, decoded like any type; the kind, not the type, tells success. -/
def execFtNoValidFrame (s : State) : Host.Outcome State Fault Refusal := acceptType typeNoValidFrame s

end Sys2Proof.Machine
end

