-- ==== Sys2Proof/Machine/Dispatch.lean ====
section
/-! DEFINITION. The dispatch: one arm per row of spec/opcode_table.json, each one call of its meaning. -/

namespace Sys2Proof.Machine

def exec (i : Instr) (s : State) : Host.Outcome State Fault Refusal :=
  match i with
  | .nop ign => Sys2Proof.Machine.execNop ign s
  | .encode ign => Sys2Proof.Machine.execEncode ign s
  | .decode ign => Sys2Proof.Machine.execDecode ign s
  | .rsvdOp ign => Sys2Proof.Machine.execRsvdOp ign s
  | .rxSeekDelim => Sys2Proof.Machine.execRxSeekDelim s
  | .rxSeekDiscard b => Sys2Proof.Machine.execRxSeekDiscard b s
  | .rxLenDelim => Sys2Proof.Machine.execRxLenDelim s
  | .rxLenEsc => Sys2Proof.Machine.execRxLenEsc s
  | .rxLenData b => Sys2Proof.Machine.execRxLenData b s
  | .rxLenEscDelim => Sys2Proof.Machine.execRxLenEscDelim s
  | .rxLenEscData b => Sys2Proof.Machine.execRxLenEscData b s
  | .rxBodyDelim => Sys2Proof.Machine.execRxBodyDelim s
  | .rxBodyEsc => Sys2Proof.Machine.execRxBodyEsc s
  | .rxBodyData b => Sys2Proof.Machine.execRxBodyData b s
  | .rxBodyEscDelim => Sys2Proof.Machine.execRxBodyEscDelim s
  | .rxBodyEscData b => Sys2Proof.Machine.execRxBodyEscData b s
  | .rxEmpty e => Sys2Proof.Machine.execRxEmpty e s
  | .txEsc7E => Sys2Proof.Machine.execTxEsc7E s
  | .txEsc7D => Sys2Proof.Machine.execTxEsc7D s
  | .txEsc11 => Sys2Proof.Machine.execTxEsc11 s
  | .txEsc13 => Sys2Proof.Machine.execTxEsc13 s
  | .txPlain x => Sys2Proof.Machine.execTxPlain x s
  | .ftTxRequest => Sys2Proof.Machine.execFtTxRequest s
  | .ftRxIndication => Sys2Proof.Machine.execFtRxIndication s
  | .ftNoValidFrame => Sys2Proof.Machine.execFtNoValidFrame s
  | .regCmd acc => Sys2Proof.Machine.execRegCmd acc s
  | .regStatus acc => Sys2Proof.Machine.execRegStatus acc s
  | .regIntEn acc => Sys2Proof.Machine.execRegIntEn acc s
  | .regRxPolls acc => Sys2Proof.Machine.execRegRxPolls acc s
  | .regSeekLimit acc => Sys2Proof.Machine.execRegSeekLimit acc s
  | .regEncFrameId acc => Sys2Proof.Machine.execRegEncFrameId acc s
  | .regEncAddr16 acc => Sys2Proof.Machine.execRegEncAddr16 acc s
  | .regEncAddr64Lo acc => Sys2Proof.Machine.execRegEncAddr64Lo acc s
  | .regEncAddr64Hi acc => Sys2Proof.Machine.execRegEncAddr64Hi acc s
  | .regEncPayloadSize acc => Sys2Proof.Machine.execRegEncPayloadSize acc s
  | .regEncLength acc => Sys2Proof.Machine.execRegEncLength acc s
  | .regDecKind acc => Sys2Proof.Machine.execRegDecKind acc s
  | .regDecLen acc => Sys2Proof.Machine.execRegDecLen acc s
  | .regDecFtype acc => Sys2Proof.Machine.execRegDecFtype acc s
  | .regDecDiscards acc => Sys2Proof.Machine.execRegDecDiscards acc s
  | .winRxBuf off acc => Sys2Proof.Machine.execWinRxBuf off acc s
  | .winTxPayload off acc => Sys2Proof.Machine.execWinTxPayload off acc s
  | .winTxOut off acc => Sys2Proof.Machine.execWinTxOut off acc s
  | .reservedSpace a acc => Sys2Proof.Machine.execReservedSpace a acc s

end Sys2Proof.Machine
end

