-- ==== Sys2Proof/Machine/Fetch.lean ====
section
/-! DEFINITION. What a step takes in. The block fetches no instructions (spec 10_state.md R17): the next event of the
schedule (20_memory.md R59), with the Source's answer where that event is a poll, is the input word of the step. -/

namespace Sys2Proof.Machine

/-- What the next step does. -/
inductive Fetched where
  /-- it runs the row of an input word -/
  | code (c : Code)
  /-- it is the ENCODE completion step (R96) -/
  | complete
  /-- it is the `rst` event (R180) -/
  | reset
  /-- it is a turn in which nothing is enabled (assumption 1) -/
  | turn
deriving DecidableEq, Repr

/-- The next event; a schedule that has run out gives every turn to the Engine (weak fairness, R59;
assumption 1). -/
def State.nextEvent (s : State) : Event :=
  match s.events with
  | [] => .engine
  | e :: _ => e

/-- The event is taken. -/
def State.popEvent (s : State) : State := { s with events := s.events.tail }

/-- An answer of the oracle. -/
def Answer.ofOption : Option Byte → Answer
  | some b => .byte b
  | none => .empty

/-- The Source's answer to the next poll: its script's, then a free value (R37, R5; assumption 2). -/
def State.nextAnswer (s : State) : Answer :=
  match s.source with
  | [] => Answer.ofOption (Config.sourceAnswer s.free)
  | a :: _ => a

/-- The answer is given: it is never given again (R58). -/
def State.popAnswer (s : State) : State :=
  match s.source with
  | [] => { s with free := s.free + 1 }
  | _ :: l => { s with source := l }

/-- The first content byte that a raw byte delivers, if it delivers it (R124, R125). -/
def State.firstContent (s : State) (b : Byte) : Option Byte :=
  if s.atFrameType then
    if b = delimiter then none
    else if s.est = .bodyEsc then some (flip20 b)
    else if b = escapeByte then none
    else some b
  else none

/-- The input word of a poll answered `Byte(b)`: the RXBYTE word (R82), or, where the byte delivers a frame type
the spec names, the FTYPE word of that type (assumption 8). -/
def State.pollCode (s : State) (b : Byte) : Code :=
  match s.firstContent b with
  | some x => if (decodeType x).isSome then .fType x else rxCode s.est b
  | none => rxCode s.est b

/-- The input word of a host access: the BUSADDR word, or, where it writes a command, the CMD32 word of that
command (R84; assumption 7). -/
def accessCode (t : Transaction) : Code :=
  match t with
  | .write a n v => if a = 0 ∧ n = 4 then .cmd32 v else .bus t
  | .read _ _ => .bus t

/-- The next Engine step, where one is enabled (R96, R111). -/
def State.fetchEngine (s : State) : Fetched :=
  if s.est = .encRun then .complete
  else if s.est.reading then
    match s.nextAnswer with
    | .byte b => .code (s.pollCode b)
    | .empty => .code (.rxPoll (BitVec.ofNat 3 s.est.code))
  else .turn

/-- What the next step does. -/
def State.fetch (s : State) : Fetched :=
  match s.nextEvent with
  | .access t => .code (accessCode t)
  | .engine => s.fetchEngine
  | .escape =>
    match s.escapeNext with
    | some x => .code (.txByte x)
    | none => .turn
  | .rst => .reset

/-- The next step polls the Source. -/
def State.polling (s : State) : Bool := s.nextEvent == .engine && s.est.reading

/-- The inputs of the next step are taken: its event, and the Source's answer where it polls. -/
def State.advance (s : State) : State :=
  if s.polling then s.popEvent.popAnswer else s.popEvent

/-- A rejected word is refused. Only a host access can be (assumption 19). -/
def Refusal.ofReject : Reject → Refusal
  | .notAdmitted => .notAdmitted
  | .noRow => .noRow

/-- `s` with the input word `c` as what the next step takes in: the event that carries it, the Source's answer that
carries it, and the engine state that the word names or needs (assumption 10). -/
def State.offer (s : State) (c : Code) : State :=
  match c with
  | .bus t => { s with events := .access t :: s.events }
  | .cmd32 v => { s with events := .access (.write 0 4 v) :: s.events }
  | .rxByte key =>
    match Est.ofCode (key.toNat / 256) with
    | some e =>
      { s with
        est := e, events := .engine :: s.events, source := .byte (key.setWidth 8) :: s.source }
    | none => s
  | .rxPoll k =>
    match Est.ofCode k.toNat with
    | some e => { s with est := e, events := .engine :: s.events, source := .empty :: s.source }
    | none => s
  | .fType x =>
    { s with
      est := .body, didx := 0, dlen := 1,
      events := .engine :: s.events, source := .byte x :: s.source }
  | .txByte x =>
    { s with est := .encRun, escIdx := 3, encFrameId := x, events := .escape :: s.events }

end Sys2Proof.Machine
end

