-- ==== Sys2Proof/Machine/Step.lean ====
section
/-! DEFINITION. One step: take in the next event and run its row; and `withFetchWord`, which offers the next step one
word of the opcode table. -/

namespace Sys2Proof.Machine

/-- One step of the machine. -/
def step (s : State) : Host.Outcome State Fault Refusal :=
  match s.fetch with
  | .code c =>
    match decode c with
    | .row i => exec i s.advance
    | .reject r => .refused (Refusal.ofReject r)
  | .complete => .next s.advance.completeEncode
  | .reset => .next s.advance.rst
  | .turn => .next s.advance

/-- `s` with a word of the opcode table as what the next step takes in (assumption 10). -/
def State.withFetchWord (s : State) (nbits w : Nat) : State :=
  match tableCode nbits w with
  | some c => s.offer c
  | none => s

end Sys2Proof.Machine
end

