-- ==== Sys2Proof/Safety.lean ====
section
/-! DEFINITION. What counts as a safe state and a safe run, in the terms the statements use. -/

namespace Sys2Proof.Machine

/-- A host address is a byte of one of the three buffers (R36, R51). -/
abbrev inBuffer (p : Params) (a : Nat) : Prop :=
  ∃ b ∈ [Buf.rxBuf, Buf.txPayload, Buf.txOut], Buf.base b ≤ a ∧ a < Buf.base b + Buf.size p b

/-- R126, R127: the result registers agree with one another. -/
abbrev resultAgrees (s : State) : Prop :=
  (s.decKind ≠ .ok → s.decFtype = typeNoValidFrame ∧ s.decLen = DecKind.length 0 s.decKind) ∧
    (s.decKind = .ok → s.decLen.toNat ≤ 0xFFFF)

/-- The invariant of the block. -/
structure State.Inv (s : State) : Prop where
  /-- R6: the parameters meet their constraints -/
  params : s.params.Legal
  /-- the memory is in its canonical form -/
  memWf : Memory.wf s.mem
  /-- R36: only bytes of the buffers are held -/
  memIn : ∀ c ∈ s.mem, inBuffer s.params c.1
  /-- R23: RX_POLLS is never 0 -/
  polls : s.rxPolls ≠ 0
  /-- R21: ERR_CAUSE is 0 exactly when CMD_ERR is 0 -/
  cause : s.errCause = .none ↔ s.cmdErr = false
  /-- R145: a running ENCODE has a payload that fits -/
  fits : s.est = .encRun → s.payloadSize ≤ s.params.txPayloadCap
  /-- R30, R104: ENC_LENGTH is 0 or the length of a wire frame -/
  encLen : s.encLength = 0 ∨ 18 ≤ s.encLength.toNat ∧ s.encLength.toNat ≤ 32 + 2 * s.params.txPayloadCap
  /-- R16: in the length field `didx` is 0 or 1 -/
  lenIdx : s.est = .len ∨ s.est = .lenEsc → s.didx.toNat ≤ 1
  /-- R16, R121: in the body `didx` is 0 to L, and L + 1 bytes fit RX_BUF -/
  bodyIdx : s.est = .body ∨ s.est = .bodyEsc →
    s.didx.toNat ≤ s.dlen.toNat ∧ s.dlen.toNat + 1 ≤ s.params.rxCap
  /-- R16, R122: in the body `dsum` is the sum of the content received so far -/
  bodySum : s.est = .body ∨ s.est = .bodyEsc → sum8 (s.bufBytes .rxBuf 0 s.didx.toNat) = s.dsum
  /-- R113: a read that goes on has waited for less than its budget -/
  wait : s.est.reading = true → s.dwait.toNat < s.polls
  /-- R115: a decode that goes on seeking has discarded less than a nonzero limit -/
  seek : s.est = .seek → s.limit ≠ 0 → s.decDiscards.toNat < s.limit
  /-- R127: the result registers agree -/
  result : resultAgrees s
  /-- the escape stage is never ahead of its frame, and idle while no ENCODE runs (assumption 9) -/
  ahead : s.escIdx ≤ s.logicalFrame.length ∧ (s.est ≠ .encRun → s.escIdx = 0)

/-- R47, R48: the access is inside the interface contract; R49: no other is. A reserved range is taken as a window
is (DEDUCED, assumption 11). -/
abbrev Admitted (t : Transaction) : Prop :=
  if t.addr.toNat < 0x100 then t.size = 4 ∧ t.addr.toNat % 4 = 0
  else t.size = 1 ∨ (t.size = 4 ∧ t.addr.toNat % 4 = 0)

/-- Two states of the same block: they differ at most in the read-data port and in how many free values were
drawn, which are no state of the block (R44). -/
abbrev State.SameBlock (s t : State) : Prop :=
  t = { s with rdata := t.rdata, free := t.free }

end Sys2Proof.Machine
end

