-- ==== Sys2Proof/Certificates/Slice0/Obligations.lean ====
section
/-! DEFINITION. The statements for the provers. Each names the rule of spec/ it rests on. -/

open Sys2Proof Sys2Proof.Machine

namespace Sys2Proof.Claims

/-! Vocabulary of the statements. -/

/-- The host address of index `i` of a buffer (R51, written out). -/
def at' : Buf → Nat → Nat
  | .rxBuf, i => 0x10000 + i
  | .txPayload, i => 0x20000 + i
  | .txOut, i => 0x40000 + i

/-- Every address outside `[lo, hi)` reads as before. -/
def Untouched (m m' : Memory) (lo hi : Nat) : Prop :=
  ∀ a, ¬(lo ≤ a ∧ a < hi) → Memory.read m' a = Memory.read m a

/-- The bytes `l` stand from address `a` on. -/
def Holds (m : Memory) (a : Nat) (l : List Byte) : Prop :=
  ∀ k v, l[k]? = some v → Memory.read m (a + k) = some v

/-- The sum of a byte sequence modulo 256, on natural numbers (R72). -/
def sumMod (l : List Byte) : Nat := (l.map BitVec.toNat).sum % 256

/-- R126 with R127: `s` after a decode ended with a kind, its DEC_LEN and its DEC_FTYPE. -/
def finished (s : State) (k : DecKind) (len : Word) (ftype : Byte) : State :=
  { s with decKind := k, decLen := len, decFtype := ftype, decDone := true, est := .idle }

/-- R122: `s` became `t` by accepting the content byte `v` after a `Byte` answer (R112). -/
def ContentAccepted (s : State) (v : Byte) (t : State) : Prop :=
  Memory.read t.mem (0x10000 + s.didx.toNat) = some v ∧
    Untouched s.mem t.mem (0x10000 + s.didx.toNat) (0x10000 + s.didx.toNat + 1) ∧
    t = { s with mem := t.mem, dwait := 0, dsum := s.dsum + v, didx := s.didx + 1, est := .body }

/-- R123, R126: `s` became `t` by accepting the checksum byte `v` after a `Byte` answer. -/
def ChecksumAccepted (s : State) (v : Byte) (t : State) : Prop :=
  Memory.read t.mem (0x10000 + s.dlen.toNat) = some v ∧
    Untouched s.mem t.mem (0x10000 + s.dlen.toNat) (0x10000 + s.dlen.toNat + 1) ∧
    t = if v = 0xFF - s.dsum then
        finished { s with mem := t.mem, dwait := 0 } .ok (s.dlen.setWidth 32) (t.bufByte .rxBuf 0)
      else finished { s with mem := t.mem, dwait := 0 } .checksum 0xFFFFFFFE 0x00

/-- The escape stage took `s` to `t` writing the wire form `w` of the next logical byte; the delimiter goes before the
first (R74, R83). The address is the one the meaning computes: `s.cursor` in TX_OUT. -/
def Escaped (s : State) (w : List Byte) (t : State) : Prop :=
  Holds t.mem (0x40000 + s.cursor) w ∧
    (s.escIdx = 0 → Memory.read t.mem 0x40000 = some 0x7E) ∧
    Untouched s.mem t.mem (if s.escIdx = 0 then 0x40000 else 0x40000 + s.cursor)
      (0x40000 + s.cursor + w.length) ∧
    t = { s with mem := t.mem, escIdx := s.escIdx + 1 }

/-- A Source's script: each byte after a number of Empty answers. -/
def answers (l : List (Nat × Byte)) : List Answer :=
  l.flatMap fun p => List.replicate p.1 Answer.empty ++ [.byte p.2]

/-- A word's transaction without the bits that the size of a write leaves unused (R91). -/
def canonical : Code → Code
  | .bus (.write a n d) => .bus (.write a n (if n = 1 then (d.setWidth 8).setWidth 32 else d))
  | c => c

/-- The host accesses that read (R141, R143). -/
def isRead : Instr → Bool
  | .regCmd .read | .regStatus .read | .regIntEn .read | .regRxPolls .read | .regSeekLimit .read
  | .regEncFrameId .read | .regEncAddr16 .read | .regEncAddr64Lo .read | .regEncAddr64Hi .read
  | .regEncPayloadSize .read | .regEncLength .read | .regDecKind .read | .regDecLen .read
  | .regDecFtype .read | .regDecDiscards .read
  | .winRxBuf _ .read8 | .winRxBuf _ .read32 | .winTxPayload _ .read8 | .winTxPayload _ .read32
  | .winTxOut _ .read8 | .winTxOut _ .read32 | .reservedSpace _ .read8 | .reservedSpace _ .read32 => true
  | _ => false

/-- The raw bytes of a logical body byte, as an escape pair or as itself (R76, R77). -/
def rawOf (p : Byte × Bool) : List Byte := if p.2 then [0x7D, p.1 ^^^ 0x20] else [p.1]

/-- Raw bytes that hold no out-of-place delimiter and stand for the logical byte (R77, R78): a pair whose second byte
is not 0x7E, or a byte that is neither 0x7E nor 0x7D. -/
def rawLegal (p : Byte × Bool) : Prop :=
  if p.2 then p.1 ^^^ 0x20 ≠ 0x7E else p.1 ≠ 0x7E ∧ p.1 ≠ 0x7D

/-- The engine-input registers of R19, and with them the bytes of TX_PAYLOAD. -/
def SameOperands (s t : State) : Prop :=
  t.rxPolls = s.rxPolls ∧ t.seekLimit = s.seekLimit ∧ t.encFrameId = s.encFrameId ∧
    t.encAddr16 = s.encAddr16 ∧ t.encAddr64Lo = s.encAddr64Lo ∧ t.encAddr64Hi = s.encAddr64Hi ∧
    t.encPayloadSize = s.encPayloadSize ∧
    ∀ i, i < s.params.txPayloadCap → t.bufByte .txPayload i = s.bufByte .txPayload i

end Sys2Proof.Claims

open Sys2Proof.Claims

/-! ## Encoding -/

/-- Every well-formed row's word decodes to that row with every operand it has (R82, R83, R84, R47, R48, R51). -/
def Obligations.DecodeOfEncodeGivesTheRowBack : Prop :=
  ∀ i : Instr, WellFormed i = true → decode (encode i) = .row i

/-- What decodes is well formed, and is the word that its row encodes to, but for the bits that a 1-byte write leaves
unused: no two words of a format share a row and its operands. -/
def Obligations.EncodeOfDecodeGivesTheWordBack : Prop :=
  ∀ (c : Code) (i : Instr), decode c = .row i → WellFormed i = true ∧ encode i = canonical c

/-- R82: the class of a raw byte in each reading state. That a word with the code of no reading state (0, 1, 7) is
rejected by the name `noRow` is the model's choice (assumption 19): R82 has no row for it. -/
def Obligations.RawBytesHaveTheirClass : Prop :=
  ∀ b : Byte,
    decode (.rxByte (2#3 ++ b)) = .row (if b = 0x7E then .rxSeekDelim else .rxSeekDiscard b) ∧
    decode (.rxByte (3#3 ++ b)) =
      .row (if b = 0x7E then .rxLenDelim else if b = 0x7D then .rxLenEsc else .rxLenData b) ∧
    decode (.rxByte (4#3 ++ b)) = .row (if b = 0x7E then .rxLenEscDelim else .rxLenEscData b) ∧
    decode (.rxByte (5#3 ++ b)) =
      .row (if b = 0x7E then .rxBodyDelim else if b = 0x7D then .rxBodyEsc else .rxBodyData b) ∧
    decode (.rxByte (6#3 ++ b)) = .row (if b = 0x7E then .rxBodyEscDelim else .rxBodyEscData b) ∧
    ∀ k ∈ [0#3, 1#3, 7#3], decode (.rxByte (k ++ b)) = .reject .noRow

/-- A few words written out bit by bit from the tables of 30_encoding.md and R19, R51. -/
def Obligations.SampleWordsDecode : Prop :=
  decode (.cmd32 0b00000000000000000000000000000010#32) = .row (.decode 0) ∧
  decode (.cmd32 0b11111111111111111111111111111110#32) = .row (.decode 0x3FFFFFFF) ∧
  decode (.rxByte 0b01001111110#11) = .row .rxSeekDelim ∧
  decode (.rxByte 0b01101111101#11) = .row .rxLenEsc ∧
  decode (.rxByte 0b11001000001#11) = .row (.rxBodyEscData 0x41) ∧
  decode (.rxPoll 0b110#3) = .row (.rxEmpty .bodyEsc) ∧
  decode (.txByte 0b00010011#8) = .row .txEsc13 ∧
  decode (.fType 0b10010000#8) = .row .ftRxIndication ∧
  decode (.bus (.write 0x0000C 4 5)) = .row (.regRxPolls (.write 5)) ∧
  decode (.bus (.read 0x20001 1)) = .row (.winTxPayload 1 .read8) ∧
  decode (.bus (.read 0x7FFFC 4)) = .row (.winTxOut 0x3FFFC .read32) ∧
  decode (.bus (.read 0x30000 4)) = .row (.reservedSpace 0x30000 .read32) ∧
  decode (.bus (.read 0x00004 1)) = .reject .notAdmitted ∧
  decode (.bus (.read 0x10002 4)) = .reject .notAdmitted ∧
  decode (.bus (.read 0x20000 2)) = .reject .notAdmitted

/-! ## The step -/

/-- A step runs the row its input word decodes to, on the state with that input taken; the three other steps are the
ENCODE completion, `rst`, and a turn in which nothing is enabled. -/
def Obligations.StepRunsTheDecodedRow : Prop :=
  ∀ s : State,
    (∀ c i, s.fetch = .code c → decode c = .row i → step s = exec i s.advance) ∧
    (s.fetch = .complete → step s = .next s.advance.completeEncode) ∧
    (s.fetch = .reset → step s = .next s.advance.rst) ∧
    (s.fetch = .turn → step s = .next s.advance) ∧
    s.advance =
      (if s.nextEvent = .engine ∧ s.est.reading = true then
        match s.source with
        | [] => { s with events := s.events.tail, free := s.free + 1 }
        | _ :: l => { s with events := s.events.tail, source := l }
      else { s with events := s.events.tail })

/-- Each event meets its row: a host access the row of its transaction (a command, its CMD32 row), a poll answered Empty
RX_EMPTY, an escape the row of its logical byte (R84, R113, R140; assumptions 7, 9). -/
def Obligations.EventsMeetTheirRows : Prop :=
  ∀ (s : State) (ev : List Event),
    (∀ v, s.events = .access (.write 0 4 v) :: ev →
      ∃ i, decode (.cmd32 v) = .row i ∧ step s = exec i { s with events := ev }) ∧
    (∀ t i, s.events = .access t :: ev → (∀ v, t ≠ .write 0 4 v) → decode (.bus t) = .row i →
      step s = exec i { s with events := ev }) ∧
    (∀ l, s.events = .engine :: ev → s.source = .empty :: l → s.est.reading = true →
      step s = exec (.rxEmpty s.est) { s with events := ev, source := l }) ∧
    (∀ x i, s.events = .escape :: ev → s.escapeNext = some x → decode (.txByte x) = .row i →
      step s = exec i { s with events := ev })

/-- A poll answered `Byte(b)` makes the step of the row that R82 gives (est, b), also where the byte delivers a frame
type the spec names and meets that type's FTYPE row: the decoder does not branch on the frame type (R90, R111, R112;
assumption 8). -/
def Obligations.PolledBytesMakeTheirRowsStep : Prop :=
  ∀ (s : State) (ev : List Event) (b : Byte) (l : List Answer) (i : Instr),
    s.events = .engine :: ev → s.source = .byte b :: l → s.est.reading = true →
      decode (rxCode s.est b) = .row i → step s = exec i { s with events := ev, source := l }

/-- No step faults, and a step is refused exactly when the next event is a host access outside the interface
contract. The contract for reserved ranges is the model's reading (assumption 11). -/
def Obligations.OnlyUnadmittedAccessesStop : Prop :=
  ∀ s : State,
    (∀ f, step s ≠ .fault f) ∧
    ∀ r, step s = .refused r ↔ r = .notAdmitted ∧ ∃ t, s.nextEvent = .access t ∧ ¬Admitted t

/-- Every step takes its event, gives at most the one answer it polled for, and changes no parameter: the Source's
bytes are used strictly in arrival order, none twice, none without a poll (R58, R111, R43). -/
def Obligations.InputsAreTakenInOrder : Prop :=
  ∀ s t : State, step s = .next t →
    t.params = s.params ∧ t.events = s.events.tail ∧
      t.source = if s.nextEvent = .engine ∧ s.est.reading = true then s.source.tail else s.source

/-! ## Reset and the invariant -/

/-- The invariant holds right after reset. It rests on the model's choices too: `escIdx` is 0 at reset (assumption 18)
and reset takes the reference parameters of R6 (assumption 6). -/
def Obligations.ResetMeetsTheInvariant : Prop := State.Inv State.reset

/-- Every step keeps the invariant: the memory stays canonical and inside the buffers, RX_POLLS stays nonzero,
ERR_CAUSE agrees with CMD_ERR, `didx`, `dlen`, `dsum` and `dwait` keep their meaning, the result registers agree. -/
def Obligations.StepKeepsTheInvariant : Prop :=
  ∀ s t : State, State.Inv s → step s = .next t → State.Inv t

/-- The `rst` event, whatever the block was doing, puts every register at its reset value, STATUS then reads 0 and the
interrupt output is low (R180); no buffer byte changes (R181), nothing of the Source (R182). The machine right after
power-up is at these values too. The model's choice: `rst` leaves the read-data port and the count of free values as
they were (assumption 15) and puts the model's own field `escIdx` to 0 (assumptions 9, 18). -/
def Obligations.RstResetsAllButTheBuffers : Prop :=
  State.reset.rst = State.reset ∧
  ∀ (s : State) (ev : List Event), s.events = .rst :: ev →
    ∃ t, step s = .next t ∧ t.irq = false ∧ t.statusWord = 0x00000000 ∧
      t = { s with
        est := .idle, didx := 0, dlen := 0, dsum := 0, dwait := 0,
        encDone := false, decDone := false, cmdErr := false, errCause := .none,
        intEn := 0, rxPolls := 1, seekLimit := 0,
        encFrameId := 0, encAddr16 := 0, encAddr64Lo := 0, encAddr64Hi := 0, encPayloadSize := 0,
        encLength := 0, decKind := .none, decLen := 0, decFtype := 0, decDiscards := 0,
        escIdx := 0, events := ev }

/-- R38, R180: after reset STATUS reads 0 and the interrupt output is low; the output is the OR of each flag ANDed with
its enable. -/
def Obligations.InterruptOutputIsTheEnabledFlags : Prop :=
  (∀ s : State, s.rst.irq = false ∧ s.rst.statusWord = 0) ∧
  ∀ s : State, s.irq = true ↔
    (s.encDone = true ∧ s.intEn.getLsbD 0 = true) ∨ (s.decDone = true ∧ s.intEn.getLsbD 1 = true) ∨
      (s.cmdErr = true ∧ s.intEn.getLsbD 2 = true)

/-! ## Commands -/

/-- R148: NOP, and the CMD write that selects it, changes no state, in any `est`; every other CMD value written while
BUSY is recorded as an error. -/
def Obligations.NopChangesNothing : Prop :=
  (∀ (ign : BitVec 30) (s : State), exec (.nop ign) s = .next s) ∧
  (∀ (v : Word) (s : State), v.extractLsb' 0 2 = 0b00#2 → exec (.regCmd (.write v)) s = .next s) ∧
  ∀ (v : Word) (s : State), s.est ≠ .idle → v.extractLsb' 0 2 ≠ 0b00#2 →
    ∃ t, exec (.regCmd (.write v)) s = .next t ∧ t.cmdErr = true ∧ t.errCause ≠ .none

/-- R145 (and R144's BUSY_CMD): ENCODE is accepted with the engine IDLE and a payload that fits, rejected with ENC_SIZE
and ENC_LENGTH 0 when it does not fit, dropped with BUSY_CMD while an operation runs. -/
def Obligations.EncodeIsAcceptedOrRejected : Prop :=
  ∀ (ign : BitVec 30) (s : State),
    (s.est = .idle → s.encPayloadSize.toNat ≤ s.params.txPayloadCap →
      exec (.encode ign) s = .next { s with est := .encRun, escIdx := 0 }) ∧
    (s.est = .idle → s.params.txPayloadCap < s.encPayloadSize.toNat →
      exec (.encode ign) s = .next { s with cmdErr := true, errCause := .encSize, encLength := 0 }) ∧
    (s.est ≠ .idle → exec (.encode ign) s = .next { s with cmdErr := true, errCause := .busyCmd })

/-- R110 (and R144's BUSY_CMD): DECODE is accepted with the engine IDLE, with a fresh datapath and no discards, the
previous result still readable; it is dropped with BUSY_CMD while an operation runs. -/
def Obligations.DecodeIsAcceptedOrDropped : Prop :=
  ∀ (ign : BitVec 30) (s : State),
    (s.est = .idle → exec (.decode ign) s =
      .next { s with est := .seek, didx := 0, dlen := 0, dsum := 0, dwait := 0, decDiscards := 0 }) ∧
    (s.est ≠ .idle → exec (.decode ign) s = .next { s with cmdErr := true, errCause := .busyCmd })

/-- R147: the reserved command, and the CMD write that selects it, starts nothing and records RSVD_OP, whatever `est`
is. -/
def Obligations.ReservedCommandIsRecorded : Prop :=
  ∀ s : State,
    (∀ ign : BitVec 30, exec (.rsvdOp ign) s = .next { s with cmdErr := true, errCause := .rsvdOp }) ∧
    ∀ v : Word, v.extractLsb' 0 2 = 0b11#2 →
      exec (.regCmd (.write v)) s = .next { s with cmdErr := true, errCause := .rsvdOp }

/-- R144, R165: a CMD write is checked in the rule's order, and has the effect of its command's row. -/
def Obligations.CmdWriteIsItsCommand : Prop :=
  ∀ (v : Word) (s : State),
    (∃ i, decode (.cmd32 v) = .row i ∧ exec (.regCmd (.write v)) s = exec i s) ∧
    (v.extractLsb' 0 2 = 0b00#2 → exec (.regCmd (.write v)) s = .next s) ∧
    (v.extractLsb' 0 2 = 0b11#2 →
      exec (.regCmd (.write v)) s = .next { s with cmdErr := true, errCause := .rsvdOp }) ∧
    (v.extractLsb' 0 2 = 0b01#2 ∨ v.extractLsb' 0 2 = 0b10#2 → s.est ≠ .idle →
      exec (.regCmd (.write v)) s = .next { s with cmdErr := true, errCause := .busyCmd }) ∧
    (v.extractLsb' 0 2 = 0b01#2 → s.est = .idle → s.params.txPayloadCap < s.encPayloadSize.toNat →
      exec (.regCmd (.write v)) s = .next { s with cmdErr := true, errCause := .encSize, encLength := 0 }) ∧
    (v.extractLsb' 0 2 = 0b01#2 → s.est = .idle → s.encPayloadSize.toNat ≤ s.params.txPayloadCap →
      exec (.regCmd (.write v)) s = .next { s with est := .encRun, escIdx := 0 }) ∧
    (v.extractLsb' 0 2 = 0b10#2 → s.est = .idle →
      exec (.regCmd (.write v)) s =
        .next { s with est := .seek, didx := 0, dlen := 0, dsum := 0, dwait := 0, decDiscards := 0 })

/-! ## Decoder polls -/

/-- R115, R112: in SEEK the delimiter begins the length field; any other byte is discarded and counted modulo 2^32, and
ends the decode SEEKLIMIT where a nonzero limit is reached. -/
def Obligations.SeekingFindsTheDelimiterOrDiscards : Prop :=
  ∀ s : State, s.est = .seek →
    exec .rxSeekDelim s = .next { s with dwait := 0, est := .len, didx := 0 } ∧
    ∀ b, exec (.rxSeekDiscard b) s =
      .next (if s.seekLimit ≠ 0 ∧ s.seekLimit.toNat ≤ (s.decDiscards.toNat + 1) % 2 ^ 32 then
          finished { s with dwait := 0, decDiscards := s.decDiscards + 1 } .seekLimit 0 0x00
        else { s with dwait := 0, decDiscards := s.decDiscards + 1, est := .seek })

/-- R116, R117, R118, R120, R121: in LEN a delimiter ends the decode FRAMING, the escape byte waits for its second byte,
any other byte is a length byte: the first the high half of L, the second the low half, after which L + 1 bytes must
fit RX_BUF. -/
def Obligations.LengthBytesAssembleBigEndian : Prop :=
  ∀ s : State, s.est = .len →
    exec .rxLenDelim s = .next (finished { s with dwait := 0 } .framing 0xFFFFFFFF 0x00) ∧
    exec .rxLenEsc s = .next { s with dwait := 0, est := .lenEsc } ∧
    ∀ b,
      (s.didx = 0 → exec (.rxLenData b) s =
        .next { s with dwait := 0, dlen := b ++ s.dlen.extractLsb' 0 8, didx := 1, est := .len }) ∧
      (s.didx ≠ 0 → exec (.rxLenData b) s =
        .next (if s.params.rxCap < (s.dlen.extractLsb' 8 8 ++ b : BitVec 16).toNat + 1 then
            finished { s with dwait := 0, dlen := s.dlen.extractLsb' 8 8 ++ b } .oversize 0xFFFFFFFD 0x00
          else
            { s with
              dwait := 0, dlen := s.dlen.extractLsb' 8 8 ++ b, est := .body, didx := 0, dsum := 0 }))

/-- R119: in LEN_ESC a delimiter ends the decode FRAMING and is never unescaped; any other byte stands for itself XOR
0x20, a length byte by R120 and R121. -/
def Obligations.EscapedLengthBytesAreUnescaped : Prop :=
  ∀ s : State, s.est = .lenEsc →
    exec .rxLenEscDelim s = .next (finished { s with dwait := 0 } .framing 0xFFFFFFFF 0x00) ∧
    ∀ b,
      (s.didx = 0 → exec (.rxLenEscData b) s =
        .next { s with
          dwait := 0, dlen := (b ^^^ 0x20) ++ s.dlen.extractLsb' 0 8, didx := 1, est := .len }) ∧
      (s.didx ≠ 0 → exec (.rxLenEscData b) s =
        .next (if s.params.rxCap < (s.dlen.extractLsb' 8 8 ++ (b ^^^ 0x20) : BitVec 16).toNat + 1 then
            finished { s with dwait := 0, dlen := s.dlen.extractLsb' 8 8 ++ (b ^^^ 0x20) }
              .oversize 0xFFFFFFFD 0x00
          else
            { s with
              dwait := 0, dlen := s.dlen.extractLsb' 8 8 ++ (b ^^^ 0x20), est := .body, didx := 0,
              dsum := 0 }))

/-- R124 with R122, R123: in BODY a delimiter ends the decode FRAMING, the escape byte waits for its second byte, any
other byte is content while `didx < dlen` and the checksum at `didx = dlen`. -/
def Obligations.BodyBytesAreContentThenChecksum : Prop :=
  ∀ s : State, s.est = .body →
    exec .rxBodyDelim s = .next (finished { s with dwait := 0 } .framing 0xFFFFFFFF 0x00) ∧
    exec .rxBodyEsc s = .next { s with dwait := 0, est := .bodyEsc } ∧
    ∀ b, s.dlen.toNat + 1 ≤ s.params.rxCap →
      (s.didx.toNat < s.dlen.toNat → ∃ t, exec (.rxBodyData b) s = .next t ∧ ContentAccepted s b t) ∧
      (s.didx = s.dlen → ∃ t, exec (.rxBodyData b) s = .next t ∧ ChecksumAccepted s b t)

/-- R125 with R122, R123: in BODY_ESC a delimiter ends the decode FRAMING and is never unescaped; any other byte stands
for itself XOR 0x20. -/
def Obligations.EscapedBodyBytesAreUnescaped : Prop :=
  ∀ s : State, s.est = .bodyEsc →
    exec .rxBodyEscDelim s = .next (finished { s with dwait := 0 } .framing 0xFFFFFFFF 0x00) ∧
    ∀ b, s.dlen.toNat + 1 ≤ s.params.rxCap →
      (s.didx.toNat < s.dlen.toNat →
        ∃ t, exec (.rxBodyEscData b) s = .next t ∧ ContentAccepted s (b ^^^ 0x20) t) ∧
      (s.didx = s.dlen →
        ∃ t, exec (.rxBodyEscData b) s = .next t ∧ ChecksumAccepted s (b ^^^ 0x20) t)

/-- R113: an Empty answer counts; the RX_POLLS-th in a row ends the decode NODATA, in every reading state. -/
def Obligations.EmptyPollsCountThenTimeOut : Prop :=
  ∀ (e : Est) (s : State), e.reading = true → s.est = e →
    exec (.rxEmpty e) s =
      .next (if s.rxPolls.toNat ≤ s.dwait.toNat + 1 then finished s .noData 0 0x00
        else { s with dwait := s.dwait + 1 })

/-- R70, R79, R90, R132: where the first of at least one content byte is a type the spec names, it is accepted by the
rule of every content byte, plain or escaped; type 0x00 is no exception. -/
def Obligations.NamedFrameTypesAreContentLikeAnyOther : Prop :=
  ∀ s : State, s.didx = 0 → 0 < s.dlen.toNat → 1 ≤ s.params.rxCap →
    (s.est = .body ∨ s.est = .bodyEsc →
      (∃ t, exec .ftTxRequest s = .next t ∧ ContentAccepted s 0x10 t) ∧
      (∃ t, exec .ftRxIndication s = .next t ∧ ContentAccepted s 0x90 t) ∧
      ∃ t, exec .ftNoValidFrame s = .next t ∧ ContentAccepted s 0x00 t) ∧
    (s.est = .body →
      exec .ftTxRequest s = exec (.rxBodyData 0x10) s ∧ exec .ftRxIndication s = exec (.rxBodyData 0x90) s ∧
      exec .ftNoValidFrame s = exec (.rxBodyData 0x00) s) ∧
    (s.est = .bodyEsc →
      exec .ftTxRequest s = exec (.rxBodyEscData 0x30) s ∧
      exec .ftRxIndication s = exec (.rxBodyEscData 0xB0) s ∧
      exec .ftNoValidFrame s = exec (.rxBodyEscData 0x20) s)

/-- R126, R127, R164, R166: a poll step that ends a decode sets DEC_DONE, reports exactly one of the six kinds with the
DEC_LEN and DEC_FTYPE of that kind, and never sets CMD_ERR. -/
def Obligations.EveryDecodeEndsWithOneResult : Prop :=
  ∀ s t : State, s.est.reading = true → s.nextEvent = .engine → step s = .next t → t.est = .idle →
    t.decDone = true ∧ t.cmdErr = s.cmdErr ∧ t.errCause = s.errCause ∧
    ((DecKind.code t.decKind = 1 ∧ t.decLen = s.dlen.setWidth 32 ∧ t.decFtype = t.bufByte .rxBuf 0) ∨
     (DecKind.code t.decKind = 2 ∧ t.decLen = 0x00000000 ∧ t.decFtype = 0x00) ∨
     (DecKind.code t.decKind = 3 ∧ t.decLen = 0xFFFFFFFF ∧ t.decFtype = 0x00) ∨
     (DecKind.code t.decKind = 4 ∧ t.decLen = 0xFFFFFFFE ∧ t.decFtype = 0x00) ∨
     (DecKind.code t.decKind = 5 ∧ t.decLen = 0xFFFFFFFD ∧ t.decFtype = 0x00) ∨
     (DecKind.code t.decKind = 6 ∧ t.decLen = 0x00000000 ∧ t.decFtype = 0x00))

/-- R111, R96, R82: an engine row run outside the state that enables it is refused: the model's choice (assumption 12;
no step of the block runs one, by the statement OnlyUnadmittedAccessesStop). -/
def Obligations.EngineRowsNeedTheirState : Prop :=
  ∀ (b x : Byte) (e : Est) (s : State),
    (s.est ≠ .seek → ∀ i ∈ [Instr.rxSeekDelim, .rxSeekDiscard b], exec i s = .refused .notEnabled) ∧
    (s.est ≠ .len → ∀ i ∈ [Instr.rxLenDelim, .rxLenEsc, .rxLenData b], exec i s = .refused .notEnabled) ∧
    (s.est ≠ .lenEsc → ∀ i ∈ [Instr.rxLenEscDelim, .rxLenEscData b], exec i s = .refused .notEnabled) ∧
    (s.est ≠ .body → ∀ i ∈ [Instr.rxBodyDelim, .rxBodyEsc, .rxBodyData b], exec i s = .refused .notEnabled) ∧
    (s.est ≠ .bodyEsc → ∀ i ∈ [Instr.rxBodyEscDelim, .rxBodyEscData b], exec i s = .refused .notEnabled) ∧
    (s.est ≠ e ∨ e.reading = false → exec (.rxEmpty e) s = .refused .notEnabled) ∧
    (¬((s.est = .body ∨ s.est = .bodyEsc) ∧ s.didx = 0 ∧ s.dlen ≠ 0) →
      ∀ i ∈ [Instr.ftTxRequest, .ftRxIndication, .ftNoValidFrame], exec i s = .refused .notEnabled) ∧
    (s.est ≠ .encRun → ∀ i ∈ [Instr.txEsc7E, .txEsc7D, .txEsc11, .txEsc13, .txPlain x],
      exec i s = .refused .notEnabled)

/-! ## Encoder -/

/-- R67, R68, R71, R72: the logical frame, field by field: length big-endian, type 0x10, frame id, addresses big-endian,
two zero bytes, the payload in index order, the checksum of the content. -/
def Obligations.LogicalFrameLayout : Prop :=
  ∀ s : State,
    let n := s.encPayloadSize.toNat
    let S := s.logicalFrame
    S.length = 17 + n ∧
    S[0]? = some (BitVec.ofNat 8 ((14 + n) / 256)) ∧ S[1]? = some (BitVec.ofNat 8 (14 + n)) ∧
    S[2]? = some 0x10 ∧ S[3]? = some s.encFrameId ∧
    (∀ k, k < 8 → S[4 + k]? = some ((s.encAddr64Hi ++ s.encAddr64Lo).extractLsb' (56 - 8 * k) 8)) ∧
    S[12]? = some (s.encAddr16.extractLsb' 8 8) ∧ S[13]? = some (s.encAddr16.extractLsb' 0 8) ∧
    S[14]? = some 0x00 ∧ S[15]? = some 0x00 ∧
    (∀ k, k < n → S[16 + k]? = some (s.bufByte .txPayload k)) ∧
    S[16 + n]? = some (BitVec.ofNat 8 (0xFF - sumMod ((S.drop 2).take (14 + n))))

/-- R74, R101, R103, R104: the wire frame is the delimiter and then each logical byte escaped on its own; its length is
18 + n + e, between 18 + n and 32 + 2n. -/
def Obligations.WireFrameLengthCountsTheEscapes : Prop :=
  ∀ s : State,
    let n := s.encPayloadSize.toNat
    let e := s.logicalFrame.countP reservedByte
    s.wire.length = 18 + n + e ∧ e ≤ 14 + n ∧ s.wire.head? = some 0x7E ∧
    ∀ l x r, s.logicalFrame = l ++ x :: r →
      ∃ u v, s.wire = u ++ (if reservedByte x then [0x7D, x ^^^ 0x20] else [x]) ++ v ∧
        u.length = 1 + l.length + l.countP reservedByte

/-- R73, R77, R78: no raw 0x7E stands in a wire form after its first byte; a reserved byte goes out as 0x7D and the byte
XOR 0x20, every other byte as itself; the decoder's XOR takes the second byte of a pair back to the byte. -/
def Obligations.WireFormsHideTheDelimiter : Prop :=
  (∀ l : List Byte, ∀ b ∈ (wireOf l).tail, b ≠ 0x7E) ∧
  ∀ x : Byte, (esc x = if reservedByte x then [0x7D, x ^^^ 0x20] else [x]) ∧ flip20 (x ^^^ 0x20) = x

/-- R105: the content and its checksum sum to 0xFF modulo 256, and the checksum is the only byte that does this. -/
def Obligations.ChecksumCompletesTheSum : Prop :=
  ∀ c : List Byte, (sumMod c + (cksum c).toNat) % 256 = 0xFF ∧
    ∀ k : Byte, (sumMod c + k.toNat) % 256 = 0xFF → k = cksum c

/-- R107: inverting one bit of one content byte changes the checksum. -/
def Obligations.ChecksumSeesASingleBit : Prop :=
  ∀ (c d : List Byte) (x : Byte) (b : Nat), b < 8 →
    cksum (c ++ (x ^^^ (1#8 <<< b)) :: d) ≠ cksum (c ++ x :: d)

/-- R96, R102, R103: the completion step of a running ENCODE writes the wire frame from TX_OUT[0] on and no other byte,
sets ENC_LENGTH to its length and ENC_DONE, and leaves the engine IDLE. -/
def Obligations.EncodeCompletesInOneStep : Prop :=
  ∀ s : State, State.Inv s → s.est = .encRun → s.nextEvent = .engine →
    ∃ t, step s = .next t ∧ Holds t.mem 0x40000 s.wire ∧
      Untouched s.mem t.mem 0x40000 (0x40000 + s.wire.length) ∧
      t.encLength.toNat = s.wire.length ∧
      t.encLength.toNat = 18 + s.encPayloadSize.toNat + s.logicalFrame.countP reservedByte ∧
      t = { s with
        mem := t.mem, encLength := t.encLength, encDone := true, est := .idle, escIdx := 0,
        events := s.events.tail }

/-- R109: what an ENCODE writes and its ENC_LENGTH depend on its operands only. -/
def Obligations.EncodeReadsOnlyItsOperands : Prop :=
  ∀ s s' : State, State.Inv s → State.Inv s' → s.est = .encRun → s'.est = .encRun →
    s.encFrameId = s'.encFrameId → s.encAddr16 = s'.encAddr16 → s.encAddr64Lo = s'.encAddr64Lo →
    s.encAddr64Hi = s'.encAddr64Hi → s.encPayloadSize = s'.encPayloadSize →
    (∀ i, i < s.encPayloadSize.toNat → s.bufByte .txPayload i = s'.bufByte .txPayload i) →
    s.completeEncode.encLength = s'.completeEncode.encLength ∧
    ∀ i, i < s.completeEncode.encLength.toNat →
      s.completeEncode.bufByte .txOut i = s'.completeEncode.bufByte .txOut i

/-- R73, R83: the escape stage writes the wire form of the logical byte it takes: a pair for 0x7E, 0x7D, 0x11 and 0x13,
the byte itself for every other. That it may do so ahead of the completion step is the model's choice
(assumption 9). -/
def Obligations.EscapeStageWritesTheWireForm : Prop :=
  ∀ s : State, State.Inv s →
    (s.escapeNext = some 0x7E → ∃ t, exec .txEsc7E s = .next t ∧ Escaped s [0x7D, 0x5E] t) ∧
    (s.escapeNext = some 0x7D → ∃ t, exec .txEsc7D s = .next t ∧ Escaped s [0x7D, 0x5D] t) ∧
    (s.escapeNext = some 0x11 → ∃ t, exec .txEsc11 s = .next t ∧ Escaped s [0x7D, 0x31] t) ∧
    (s.escapeNext = some 0x13 → ∃ t, exec .txEsc13 s = .next t ∧ Escaped s [0x7D, 0x33] t) ∧
    ∀ x, reservedByte x = false → s.escapeNext = some x →
      ∃ t, exec (.txPlain x) s = .next t ∧ Escaped s [x] t

/-- A byte escaped ahead never shows in the outcome: the completion step after it leaves the state that it would have
left without it (R96 is one indivisible step; assumption 9). -/
def Obligations.EscapingAheadIsInvisible : Prop :=
  ∀ (s t : State) (x : Byte) (i : Instr), State.Inv s → s.escapeNext = some x →
    decode (.txByte x) = .row i → exec i s = .next t → t.completeEncode = s.completeEncode

/-- The TXBYTE rows run over S from its first byte write the wire frame: after k of them TX_OUT begins with the wire
form of the first k logical bytes (R74, R75; assumption 9). -/
def Obligations.EscapeStageBuildsTheWireFrame : Prop :=
  ∀ (s : State) (k : Nat) (ev : List Event), State.Inv s → s.est = .encRun → s.escIdx = 0 →
    0 < k → k ≤ s.logicalFrame.length → s.events = List.replicate k Event.escape ++ ev →
    ∃ t, Host.Core.run Sys2Proof.core k s = .next t ∧
      Holds t.mem 0x40000 (wireOf (s.logicalFrame.take k)) ∧
      t = { s with mem := t.mem, escIdx := k, events := ev }

/-! ## Host accesses -/

/-- R141: what a read of each register answers; it changes nothing but the read-data port. ENC_LENGTH read during
ENC_RUN answers some value (R60). -/
def Obligations.RegisterReadsAnswer : Prop :=
  ∀ s : State,
    exec (.regCmd .read) s = .next { s with rdata := 0 } ∧
    (∃ v : Word, exec (.regStatus .read) s = .next { s with rdata := v } ∧
      v.toNat = (if s.est = .idle then 0 else 1) + (if s.encDone then 2 else 0) + (if s.decDone then 4 else 0) +
        (if s.cmdErr then 8 else 0) + 16 * s.est.code + 256 * ErrCause.code s.errCause) ∧
    exec (.regIntEn .read) s = .next { s with rdata := BitVec.ofNat 32 s.intEn.toNat } ∧
    exec (.regRxPolls .read) s = .next { s with rdata := BitVec.ofNat 32 s.rxPolls.toNat } ∧
    exec (.regSeekLimit .read) s = .next { s with rdata := BitVec.ofNat 32 s.seekLimit.toNat } ∧
    exec (.regEncFrameId .read) s = .next { s with rdata := BitVec.ofNat 32 s.encFrameId.toNat } ∧
    exec (.regEncAddr16 .read) s = .next { s with rdata := BitVec.ofNat 32 s.encAddr16.toNat } ∧
    exec (.regEncAddr64Lo .read) s = .next { s with rdata := s.encAddr64Lo } ∧
    exec (.regEncAddr64Hi .read) s = .next { s with rdata := s.encAddr64Hi } ∧
    exec (.regEncPayloadSize .read) s = .next { s with rdata := BitVec.ofNat 32 s.encPayloadSize.toNat } ∧
    (s.est ≠ .encRun → exec (.regEncLength .read) s = .next { s with rdata := s.encLength }) ∧
    (s.est = .encRun →
      ∃ v, exec (.regEncLength .read) s = .next { s with rdata := v, free := s.free + 1 }) ∧
    exec (.regDecKind .read) s = .next { s with rdata := BitVec.ofNat 32 (DecKind.code s.decKind) } ∧
    exec (.regDecLen .read) s = .next { s with rdata := s.decLen } ∧
    exec (.regDecFtype .read) s = .next { s with rdata := BitVec.ofNat 32 s.decFtype.toNat } ∧
    exec (.regDecDiscards .read) s = .next { s with rdata := s.decDiscards } ∧
    ∀ a : Addr, 0x3C ≤ a.toNat → a.toNat < 0x100 → a.toNat % 4 = 0 →
      exec (.reservedSpace a .read32) s = .next { s with rdata := 0 }

/-- R149: a STATUS write clears exactly the flags whose bit is 1, and ERR_CAUSE with CMD_ERR, in every `est`. -/
def Obligations.StatusWriteClearsFlags : Prop :=
  ∀ (v : Word) (s : State),
    exec (.regStatus (.write v)) s = .next { s with
      encDone := if v.getLsbD 1 then false else s.encDone
      decDone := if v.getLsbD 2 then false else s.decDone
      cmdErr := if v.getLsbD 3 then false else s.cmdErr
      errCause := if v.getLsbD 3 then .none else s.errCause }

/-- R153, R38: an INT_EN write stores v[2:0] in every `est`, and the interrupt output follows at once. -/
def Obligations.IntEnWriteTakesEffectAtOnce : Prop :=
  ∀ (v : Word) (s : State),
    ∃ t, exec (.regIntEn (.write v)) s = .next t ∧ t = { s with intEn := v.extractLsb' 0 3 } ∧
      (t.irq = true ↔ (s.encDone = true ∧ v.getLsbD 0 = true) ∨ (s.decDone = true ∧ v.getLsbD 1 = true) ∨
        (s.cmdErr = true ∧ v.getLsbD 2 = true))

/-- R142, R150: with the engine IDLE a write to an engine-input register stores its field; RX_POLLS stores 1 for 0. -/
def Obligations.InputRegisterWritesStoreTheField : Prop :=
  ∀ (v : Word) (s : State), s.est = .idle →
    exec (.regRxPolls (.write v)) s =
      .next { s with rxPolls := if v.extractLsb' 0 16 = 0 then 1 else v.extractLsb' 0 16 } ∧
    exec (.regSeekLimit (.write v)) s = .next { s with seekLimit := v.extractLsb' 0 16 } ∧
    exec (.regEncFrameId (.write v)) s = .next { s with encFrameId := v.extractLsb' 0 8 } ∧
    exec (.regEncAddr16 (.write v)) s = .next { s with encAddr16 := v.extractLsb' 0 16 } ∧
    exec (.regEncAddr64Lo (.write v)) s = .next { s with encAddr64Lo := v } ∧
    exec (.regEncAddr64Hi (.write v)) s = .next { s with encAddr64Hi := v } ∧
    exec (.regEncPayloadSize (.write v)) s = .next { s with encPayloadSize := v.extractLsb' 0 16 }

/-- R146: while an operation runs a write to an engine input, TX_PAYLOAD among them, is dropped and recorded as
BUSY_WRITE. -/
def Obligations.InputWritesAreDroppedWhileBusy : Prop :=
  ∀ (v : Word) (s : State), s.est ≠ .idle →
    (∀ i ∈ [Instr.regRxPolls (.write v), .regSeekLimit (.write v), .regEncFrameId (.write v),
        .regEncAddr16 (.write v), .regEncAddr64Lo (.write v), .regEncAddr64Hi (.write v),
        .regEncPayloadSize (.write v)],
      exec i s = .next { s with cmdErr := true, errCause := .busyWrite }) ∧
    ∀ (off : BitVec 16) (b : Byte), off.toNat < s.params.txPayloadCap →
      exec (.winTxPayload off (.write8 b)) s = .next { s with cmdErr := true, errCause := .busyWrite } ∧
      (off.toNat % 4 = 0 →
        exec (.winTxPayload off (.write32 v)) s =
          .next { s with cmdErr := true, errCause := .busyWrite }) ∧
      ∀ far : BitVec 16, s.params.txPayloadCap ≤ far.toNat →
        exec (.winTxPayload far (.write8 b)) s = .next s ∧
        (far.toNat % 4 = 0 → exec (.winTxPayload far (.write32 v)) s = .next s)

/-- R152, R35: a write to a read-only register, to the RX_BUF or TX_OUT window or to reserved space changes no state, in
every `est`. -/
def Obligations.IgnoredWritesChangeNothing : Prop :=
  ∀ (v : Word) (b : Byte) (s : State),
    (∀ i ∈ [Instr.regEncLength (.write v), .regDecKind (.write v), .regDecLen (.write v),
        .regDecFtype (.write v), .regDecDiscards (.write v)], exec i s = .next s) ∧
    (∀ off : BitVec 16, exec (.winRxBuf off (.write8 b)) s = .next s ∧
      (off.toNat % 4 = 0 → exec (.winRxBuf off (.write32 v)) s = .next s)) ∧
    (∀ off : BitVec 18, exec (.winTxOut off (.write8 b)) s = .next s ∧
      (off.toNat % 4 = 0 → exec (.winTxOut off (.write32 v)) s = .next s)) ∧
    ∀ a : Addr, a.toNat % 4 = 0 → exec (.reservedSpace a (.write32 v)) s = .next s

/-- R35, R52: reserved space reads as 0 and ignores writes. That a reserved range takes 1-byte accesses is the model's
reading (assumption 11), and that a 1-byte read leaves bits 31 to 8 of the read-data port zero is the model's choice
(assumption 3). -/
def Obligations.ReservedSpaceReadsZeroAndIgnoresWrites : Prop :=
  ∀ (a : Addr) (v : Word) (b : Byte) (s : State),
    (0x100 ≤ a.toNat →
      exec (.reservedSpace a .read8) s = .next { s with rdata := 0 } ∧
      exec (.reservedSpace a (.write8 b)) s = .next s) ∧
    (a.toNat % 4 = 0 →
      exec (.reservedSpace a .read32) s = .next { s with rdata := 0 } ∧
      exec (.reservedSpace a (.write32 v)) s = .next s)

/-- R47 to R49: a 4-byte access at an unaligned address, and a 1-byte access to the register block, is refused. -/
def Obligations.UnadmittedFormsAreRefused : Prop :=
  ∀ (v : Word) (b : Byte) (s : State),
    (∀ off : BitVec 16, off.toNat % 4 ≠ 0 → ∀ acc ∈ [WinAccess.read32, .write32 v],
      exec (.winRxBuf off acc) s = .refused .notAdmitted ∧
      exec (.winTxPayload off acc) s = .refused .notAdmitted) ∧
    (∀ off : BitVec 18, off.toNat % 4 ≠ 0 → ∀ acc ∈ [WinAccess.read32, .write32 v],
      exec (.winTxOut off acc) s = .refused .notAdmitted) ∧
    ∀ a : Addr,
      (a.toNat % 4 ≠ 0 → ∀ acc ∈ [WinAccess.read32, .write32 v],
        exec (.reservedSpace a acc) s = .refused .notAdmitted) ∧
      (a.toNat < 0x100 → ∀ acc ∈ [WinAccess.read8, .write8 b],
        exec (.reservedSpace a acc) s = .refused .notAdmitted)

/-- R143, R50, R52: a window read answers the buffer's bytes, little-endian, 0x00 at or beyond the size, where R60 does
not leave the value open; it changes nothing else. That a 1-byte read leaves bits 31 to 8 of the read-data port zero is
the model's choice (assumption 3). -/
def Obligations.WindowReadsAnswerTheBuffer : Prop :=
  ∀ s : State,
    let byte := fun (b : Buf) (i : Nat) =>
      if i < Buf.size s.params b then (s.bufByte b i).toNat else 0
    let word := fun (b : Buf) (i : Nat) =>
      BitVec.ofNat 32 (byte b i + 2 ^ 8 * byte b (i + 1) + 2 ^ 16 * byte b (i + 2) + 2 ^ 24 * byte b (i + 3))
    (∀ off : BitVec 16, s.est = .idle ∨ s.est = .encRun →
      exec (.winRxBuf off .read8) s = .next { s with rdata := BitVec.ofNat 32 (byte .rxBuf off.toNat) } ∧
      (off.toNat % 4 = 0 →
        exec (.winRxBuf off .read32) s = .next { s with rdata := word .rxBuf off.toNat })) ∧
    (∀ off : BitVec 16,
      exec (.winTxPayload off .read8) s =
        .next { s with rdata := BitVec.ofNat 32 (byte .txPayload off.toNat) } ∧
      (off.toNat % 4 = 0 →
        exec (.winTxPayload off .read32) s = .next { s with rdata := word .txPayload off.toNat })) ∧
    (∀ off : BitVec 18, s.est ≠ .encRun →
      exec (.winTxOut off .read8) s = .next { s with rdata := BitVec.ofNat 32 (byte .txOut off.toNat) } ∧
      (off.toNat % 4 = 0 →
        exec (.winTxOut off .read32) s = .next { s with rdata := word .txOut off.toNat }))

/-- R60, R143: a read of TX_OUT during ENC_RUN, or of RX_BUF during a decode, completes with some value and changes
nothing of the block; a byte at or beyond the size reads as 0x00 still (the model's reading of R52, assumption 4). That
a 1-byte read leaves bits 31 to 8 of the read-data port zero is the model's choice (assumption 3). -/
def Obligations.OpenWindowReadsComplete : Prop :=
  ∀ s : State,
    (∀ off : BitVec 16, s.est.reading = true →
      (∃ v, exec (.winRxBuf off .read8) s = .next { s with rdata := v, free := s.free + 1 } ∧
        (s.params.rxCap ≤ off.toNat → v = 0)) ∧
      (off.toNat % 4 = 0 →
        ∃ v, exec (.winRxBuf off .read32) s = .next { s with rdata := v, free := s.free + 1 } ∧
          (s.params.rxCap ≤ off.toNat → v = 0))) ∧
    ∀ off : BitVec 18, s.est = .encRun →
      (∃ v, exec (.winTxOut off .read8) s = .next { s with rdata := v, free := s.free + 1 } ∧
        (s.params.txOutCap ≤ off.toNat → v = 0)) ∧
      (off.toNat % 4 = 0 →
        ∃ v, exec (.winTxOut off .read32) s = .next { s with rdata := v, free := s.free + 1 } ∧
          (s.params.txOutCap ≤ off.toNat → v = 0))

/-- R151, R50, R52: with the engine IDLE a TX_PAYLOAD window write stores the bytes below the buffer's size, lowest first,
and changes nothing else; beyond the size nothing is stored, in every `est`. -/
def Obligations.PayloadWritesStoreBytes : Prop :=
  ∀ (s : State) (off : BitVec 16) (b : Byte) (v : Word),
    (s.est = .idle →
      (∃ t, exec (.winTxPayload off (.write8 b)) s = .next t ∧ t = { s with mem := t.mem } ∧
        (off.toNat < s.params.txPayloadCap → Memory.read t.mem (0x20000 + off.toNat) = some b) ∧
        Untouched s.mem t.mem (0x20000 + off.toNat)
          (0x20000 + min (off.toNat + 1) s.params.txPayloadCap)) ∧
      (off.toNat % 4 = 0 → ∃ t, exec (.winTxPayload off (.write32 v)) s = .next t ∧
        t = { s with mem := t.mem } ∧
        (∀ j, j < 4 → off.toNat + j < s.params.txPayloadCap →
          Memory.read t.mem (0x20000 + off.toNat + j) = some (v.extractLsb' (8 * j) 8)) ∧
        Untouched s.mem t.mem (0x20000 + off.toNat)
          (0x20000 + min (off.toNat + 4) s.params.txPayloadCap))) ∧
    (s.params.txPayloadCap ≤ off.toNat →
      exec (.winTxPayload off (.write8 b)) s = .next s ∧
      (off.toNat % 4 = 0 → exec (.winTxPayload off (.write32 v)) s = .next s))

/-- R53: with the engine IDLE a 1-byte window read sees the byte that the aligned 4-byte read answers in its place. That
it leaves bits 31 to 8 of the read-data port zero is the model's choice (assumption 3). -/
def Obligations.ByteAndWordReadsAgree : Prop :=
  ∀ s : State, s.est = .idle →
    (∀ (t8 t32 : State) (off : BitVec 16), exec (.winTxPayload off .read8) s = .next t8 →
      exec (.winTxPayload (BitVec.ofNat 16 (off.toNat - off.toNat % 4)) .read32) s = .next t32 →
      t8.rdata = (t32.rdata.extractLsb' (8 * (off.toNat % 4)) 8).setWidth 32) ∧
    (∀ (t8 t32 : State) (off : BitVec 16), exec (.winRxBuf off .read8) s = .next t8 →
      exec (.winRxBuf (BitVec.ofNat 16 (off.toNat - off.toNat % 4)) .read32) s = .next t32 →
      t8.rdata = (t32.rdata.extractLsb' (8 * (off.toNat % 4)) 8).setWidth 32) ∧
    ∀ (t8 t32 : State) (off : BitVec 18), exec (.winTxOut off .read8) s = .next t8 →
      exec (.winTxOut (BitVec.ofNat 18 (off.toNat - off.toNat % 4)) .read32) s = .next t32 →
      t8.rdata = (t32.rdata.extractLsb' (8 * (off.toNat % 4)) 8).setWidth 32

/-! ## Rules of the whole machine -/

/-- R55: no read has a side effect on the block. -/
def Obligations.ReadsChangeNothingOfTheBlock : Prop :=
  ∀ (i : Instr) (s t : State), isRead i = true → exec i s = .next t → State.SameBlock s t

/-- R155: no host access moves or stops an operation in progress. -/
def Obligations.NoAccessStopsAnOperation : Prop :=
  ∀ (s t : State) (a : Transaction), s.est ≠ .idle → s.nextEvent = .access a → step s = .next t →
    t.est = s.est ∧ t.didx = s.didx ∧ t.dlen = s.dlen ∧ t.dsum = s.dsum ∧ t.dwait = s.dwait ∧
      t.escIdx = s.escIdx ∧ t.mem = s.mem

/-- R64, R146: every operand keeps, until the operation completes, the value it had at acceptance: no step but `rst`
changes an engine input while BUSY, and `rst` changes no buffer byte. -/
def Obligations.OperandsAreFrozenWhileBusy : Prop :=
  ∀ s t : State, State.Inv s → s.est ≠ .idle → step s = .next t →
    (s.nextEvent ≠ .rst → SameOperands s t) ∧
      ∀ i, i < s.params.txPayloadCap → t.bufByte .txPayload i = s.bufByte .txPayload i

/-- R41, R168: a flag is set only by its source: ENC_DONE by the completion step, DEC_DONE by a poll that ends a decode,
CMD_ERR by a host write; a flag is cleared only by a STATUS write or `rst`. -/
def Obligations.FlagsHaveOneSourceEach : Prop :=
  ∀ s t : State, step s = .next t →
    (s.encDone = false → t.encDone = true → s.est = .encRun ∧ s.nextEvent = .engine) ∧
    (s.decDone = false → t.decDone = true → s.est.reading = true ∧ s.nextEvent = .engine) ∧
    (s.cmdErr = false → t.cmdErr = true → ∃ a n v, s.nextEvent = .access (.write a n v)) ∧
    ((s.encDone = true ∧ t.encDone = false) ∨ (s.decDone = true ∧ t.decDone = false) ∨
        (s.cmdErr = true ∧ t.cmdErr = false) →
      s.nextEvent = .rst ∨ ∃ v, s.nextEvent = .access (.write 0x00004 4 v))

/-- R31 to R33, R126: the result registers change only in the step that ends a decode, or by `rst`. -/
def Obligations.ResultRegistersChangeOnlyAtTheEnd : Prop :=
  ∀ s t : State, step s = .next t → s.nextEvent ≠ .rst →
    t.decKind ≠ s.decKind ∨ t.decLen ≠ s.decLen ∨ t.decFtype ≠ s.decFtype →
      s.est.reading = true ∧ s.nextEvent = .engine ∧ t.est = .idle ∧ t.decDone = true

/-- R36, R57: a buffer byte changes only by the writes the spec names: TX_PAYLOAD by a Host write with the engine IDLE,
TX_OUT by a running ENCODE within its wire frame, RX_BUF by a decode at `didx`. -/
def Obligations.BufferBytesChangeOnlyByTheirWriters : Prop :=
  ∀ (s t : State) (i : Nat), State.Inv s → step s = .next t →
    (i < s.params.txPayloadCap → t.bufByte .txPayload i ≠ s.bufByte .txPayload i →
      s.est = .idle ∧ ∃ a n v, s.nextEvent = .access (.write a n v) ∧ a.toNat ≤ 0x20000 + i ∧
        0x20000 + i < a.toNat + n) ∧
    (i < s.params.txOutCap → t.bufByte .txOut i ≠ s.bufByte .txOut i →
      s.est = .encRun ∧ i < s.wire.length) ∧
    (i < s.params.rxCap → t.bufByte .rxBuf i ≠ s.bufByte .rxBuf i →
      (s.est = .body ∨ s.est = .bodyEsc) ∧ s.nextEvent = .engine ∧ i = s.didx.toNat)

/-! ## Runs -/

/-- R135 (a), R113: when the Source answers only Empty, a read goes on through RX_POLLS - 1 polls and the decode ends
NODATA on exactly the RX_POLLS-th. -/
def Obligations.SilenceEndsADecodeOnTheLastPoll : Prop :=
  ∀ (s : State) (rest : List Answer) (ev : List Event),
    s.est.reading = true → s.dwait = 0 → s.rxPolls ≠ 0 →
    s.source = List.replicate s.rxPolls.toNat Answer.empty ++ rest →
    s.events = List.replicate s.rxPolls.toNat Event.engine ++ ev →
    (∀ k, k < s.rxPolls.toNat → Host.Core.run Sys2Proof.core k s =
      .next { s with dwait := BitVec.ofNat 16 k, source := s.source.drop k, events := s.events.drop k }) ∧
    Host.Core.run Sys2Proof.core s.rxPolls.toNat s =
      .next (finished { s with dwait := s.rxPolls - 1, source := rest, events := ev } .noData 0 0x00)

/-- R135 (d), R194: with SEEK_LIMIT = 0 a Source that keeps delivering bytes other than the delimiter, with fewer than
RX_POLLS Empty answers before each, keeps the decode in SEEK; every byte is counted modulo 2^32. -/
def Obligations.NoiseKeepsADecodeSeeking : Prop :=
  ∀ (s : State) (l : List (Nat × Byte)) (rest : List Answer) (ev : List Event),
    s.est = .seek → s.seekLimit = 0 → s.dwait = 0 →
    (∀ p ∈ l, p.1 < s.rxPolls.toNat ∧ p.2 ≠ 0x7E) →
    s.source = answers l ++ rest →
    s.events = List.replicate (answers l).length Event.engine ++ ev →
    Host.Core.run Sys2Proof.core (answers l).length s =
      .next { s with
        source := rest, events := ev, decDiscards := s.decDiscards + BitVec.ofNat 32 l.length }

/-- R115: with a limit m the m-th byte discarded, and no earlier one, ends the decode SEEKLIMIT, the bytes after it left
in the Source (R129). -/
def Obligations.TheLimitEndsSeekingOnTheLastByteItAllows : Prop :=
  ∀ (s : State) (l : List Byte) (rest : List Answer) (ev : List Event),
    s.est = .seek → s.decDiscards = 0 → s.seekLimit ≠ 0 → l.length = s.seekLimit.toNat →
    (∀ b ∈ l, b ≠ 0x7E) → s.source = l.map Answer.byte ++ rest →
    s.events = List.replicate l.length Event.engine ++ ev →
    Host.Core.run Sys2Proof.core l.length s =
      .next (finished { s with
        dwait := 0, source := rest, events := ev, decDiscards := BitVec.ofNat 32 l.length }
          .seekLimit 0 0x00)

/-- R136, R130, R128: a body of L + 1 logical bytes, each raw or as any escape pair, with no out-of-place delimiter and
no wait, is stored in order and ends OK exactly when its bytes sum to 0xFF modulo 256, CHECKSUM otherwise; nothing
after it is consumed (R129). -/
def Obligations.BodyIsValidExactlyWhenItSumsToFF : Prop :=
  ∀ (s : State) (l : List (Byte × Bool)) (rest : List Answer) (ev : List Event),
    s.est = .body → s.didx = 0 → s.dsum = 0 → s.dlen.toNat + 1 ≤ s.params.rxCap →
    l.length = s.dlen.toNat + 1 → (∀ p ∈ l, rawLegal p) →
    s.source = (l.flatMap rawOf).map Answer.byte ++ rest →
    s.events = List.replicate (l.flatMap rawOf).length Event.engine ++ ev →
    ∃ t, Host.Core.run Sys2Proof.core (l.flatMap rawOf).length s = .next t ∧
      t.est = .idle ∧ t.decDone = true ∧ t.source = rest ∧ t.events = ev ∧
      t.decKind = (if sumMod (l.map Prod.fst) = 0xFF then .ok else .checksum) ∧
      t.decLen = (if sumMod (l.map Prod.fst) = 0xFF then s.dlen.setWidth 32 else 0xFFFFFFFE) ∧
      Holds t.mem 0x10000 (l.map Prod.fst) ∧
      Untouched s.mem t.mem 0x10000 (0x10000 + l.length)

/-- R106: the round trip. When the wire frame of `s` is delivered to a DECODE of `u`, each byte after fewer than RX_POLLS
Empty answers, and RX_BUF can hold it, the decode ends OK with the encoder's operands in RX_BUF. -/
def Obligations.DecodingAnEncodedFrameRecoversIt : Prop :=
  ∀ (s u : State) (gaps : List Nat) (rest : List Answer) (ev : List Event),
    s.encPayloadSize.toNat ≤ 65521 → u.est = .idle → 14 + s.encPayloadSize.toNat + 1 ≤ u.params.rxCap →
    gaps.length = s.wire.length → (∀ g ∈ gaps, g < u.rxPolls.toNat) →
    u.source = answers (gaps.zip s.wire) ++ rest →
    u.events = .access (.write 0 4 2) ::
      (List.replicate (answers (gaps.zip s.wire)).length Event.engine ++ ev) →
    ∃ t, Host.Core.run Sys2Proof.core ((answers (gaps.zip s.wire)).length + 1) u = .next t ∧
      t.est = .idle ∧ t.decDone = true ∧ t.decKind = .ok ∧
      t.decLen.toNat = 14 + s.encPayloadSize.toNat ∧ t.decFtype = 0x10 ∧
      t.source = rest ∧ t.events = ev ∧
      t.bufByte .rxBuf 0 = 0x10 ∧ t.bufByte .rxBuf 1 = s.encFrameId ∧
      (∀ k, k < 8 → t.bufByte .rxBuf (2 + k) =
        (s.encAddr64Hi ++ s.encAddr64Lo).extractLsb' (56 - 8 * k) 8) ∧
      t.bufByte .rxBuf 10 = s.encAddr16.extractLsb' 8 8 ∧
      t.bufByte .rxBuf 11 = s.encAddr16.extractLsb' 0 8 ∧
      t.bufByte .rxBuf 12 = 0x00 ∧ t.bufByte .rxBuf 13 = 0x00 ∧
      (∀ k, k < s.encPayloadSize.toNat → t.bufByte .rxBuf (14 + k) = s.bufByte .txPayload k) ∧
      t.bufByte .rxBuf (14 + s.encPayloadSize.toNat) = cksum s.content
end

