-- ==== Sys2Proof/Laws/State.lean ====
section
/-! SUPPORT. One lemma per field per update of the state: what each update writes, and that it leaves every other
field. All hold by definition. -/

namespace Sys2Proof.Machine.State

variable (s : State)

/-! `answer32` -/

@[simp] theorem answer32_est (v : Word) : (s.answer32 v).est = s.est := rfl
@[simp] theorem answer32_didx (v : Word) : (s.answer32 v).didx = s.didx := rfl
@[simp] theorem answer32_dlen (v : Word) : (s.answer32 v).dlen = s.dlen := rfl
@[simp] theorem answer32_dsum (v : Word) : (s.answer32 v).dsum = s.dsum := rfl
@[simp] theorem answer32_dwait (v : Word) : (s.answer32 v).dwait = s.dwait := rfl
@[simp] theorem answer32_encDone (v : Word) : (s.answer32 v).encDone = s.encDone := rfl
@[simp] theorem answer32_decDone (v : Word) : (s.answer32 v).decDone = s.decDone := rfl
@[simp] theorem answer32_cmdErr (v : Word) : (s.answer32 v).cmdErr = s.cmdErr := rfl
@[simp] theorem answer32_errCause (v : Word) : (s.answer32 v).errCause = s.errCause := rfl
@[simp] theorem answer32_intEn (v : Word) : (s.answer32 v).intEn = s.intEn := rfl
@[simp] theorem answer32_rxPolls (v : Word) : (s.answer32 v).rxPolls = s.rxPolls := rfl
@[simp] theorem answer32_seekLimit (v : Word) : (s.answer32 v).seekLimit = s.seekLimit := rfl
@[simp] theorem answer32_encFrameId (v : Word) : (s.answer32 v).encFrameId = s.encFrameId := rfl
@[simp] theorem answer32_encAddr16 (v : Word) : (s.answer32 v).encAddr16 = s.encAddr16 := rfl
@[simp] theorem answer32_encAddr64Lo (v : Word) : (s.answer32 v).encAddr64Lo = s.encAddr64Lo := rfl
@[simp] theorem answer32_encAddr64Hi (v : Word) : (s.answer32 v).encAddr64Hi = s.encAddr64Hi := rfl
@[simp] theorem answer32_encPayloadSize (v : Word) : (s.answer32 v).encPayloadSize = s.encPayloadSize := rfl
@[simp] theorem answer32_encLength (v : Word) : (s.answer32 v).encLength = s.encLength := rfl
@[simp] theorem answer32_decKind (v : Word) : (s.answer32 v).decKind = s.decKind := rfl
@[simp] theorem answer32_decLen (v : Word) : (s.answer32 v).decLen = s.decLen := rfl
@[simp] theorem answer32_decFtype (v : Word) : (s.answer32 v).decFtype = s.decFtype := rfl
@[simp] theorem answer32_decDiscards (v : Word) : (s.answer32 v).decDiscards = s.decDiscards := rfl
@[simp] theorem answer32_mem (v : Word) : (s.answer32 v).mem = s.mem := rfl
@[simp] theorem answer32_params (v : Word) : (s.answer32 v).params = s.params := rfl
@[simp] theorem answer32_events (v : Word) : (s.answer32 v).events = s.events := rfl
@[simp] theorem answer32_source (v : Word) : (s.answer32 v).source = s.source := rfl
@[simp] theorem answer32_rdata (v : Word) : (s.answer32 v).rdata = v := rfl
@[simp] theorem answer32_free (v : Word) : (s.answer32 v).free = s.free := rfl
@[simp] theorem answer32_escIdx (v : Word) : (s.answer32 v).escIdx = s.escIdx := rfl

/-! `answer8` -/

@[simp] theorem answer8_est (v : Byte) : (s.answer8 v).est = s.est := rfl
@[simp] theorem answer8_didx (v : Byte) : (s.answer8 v).didx = s.didx := rfl
@[simp] theorem answer8_dlen (v : Byte) : (s.answer8 v).dlen = s.dlen := rfl
@[simp] theorem answer8_dsum (v : Byte) : (s.answer8 v).dsum = s.dsum := rfl
@[simp] theorem answer8_dwait (v : Byte) : (s.answer8 v).dwait = s.dwait := rfl
@[simp] theorem answer8_encDone (v : Byte) : (s.answer8 v).encDone = s.encDone := rfl
@[simp] theorem answer8_decDone (v : Byte) : (s.answer8 v).decDone = s.decDone := rfl
@[simp] theorem answer8_cmdErr (v : Byte) : (s.answer8 v).cmdErr = s.cmdErr := rfl
@[simp] theorem answer8_errCause (v : Byte) : (s.answer8 v).errCause = s.errCause := rfl
@[simp] theorem answer8_intEn (v : Byte) : (s.answer8 v).intEn = s.intEn := rfl
@[simp] theorem answer8_rxPolls (v : Byte) : (s.answer8 v).rxPolls = s.rxPolls := rfl
@[simp] theorem answer8_seekLimit (v : Byte) : (s.answer8 v).seekLimit = s.seekLimit := rfl
@[simp] theorem answer8_encFrameId (v : Byte) : (s.answer8 v).encFrameId = s.encFrameId := rfl
@[simp] theorem answer8_encAddr16 (v : Byte) : (s.answer8 v).encAddr16 = s.encAddr16 := rfl
@[simp] theorem answer8_encAddr64Lo (v : Byte) : (s.answer8 v).encAddr64Lo = s.encAddr64Lo := rfl
@[simp] theorem answer8_encAddr64Hi (v : Byte) : (s.answer8 v).encAddr64Hi = s.encAddr64Hi := rfl
@[simp] theorem answer8_encPayloadSize (v : Byte) : (s.answer8 v).encPayloadSize = s.encPayloadSize := rfl
@[simp] theorem answer8_encLength (v : Byte) : (s.answer8 v).encLength = s.encLength := rfl
@[simp] theorem answer8_decKind (v : Byte) : (s.answer8 v).decKind = s.decKind := rfl
@[simp] theorem answer8_decLen (v : Byte) : (s.answer8 v).decLen = s.decLen := rfl
@[simp] theorem answer8_decFtype (v : Byte) : (s.answer8 v).decFtype = s.decFtype := rfl
@[simp] theorem answer8_decDiscards (v : Byte) : (s.answer8 v).decDiscards = s.decDiscards := rfl
@[simp] theorem answer8_mem (v : Byte) : (s.answer8 v).mem = s.mem := rfl
@[simp] theorem answer8_params (v : Byte) : (s.answer8 v).params = s.params := rfl
@[simp] theorem answer8_events (v : Byte) : (s.answer8 v).events = s.events := rfl
@[simp] theorem answer8_source (v : Byte) : (s.answer8 v).source = s.source := rfl
@[simp] theorem answer8_rdata (v : Byte) : (s.answer8 v).rdata = v.setWidth 32 := rfl
@[simp] theorem answer8_free (v : Byte) : (s.answer8 v).free = s.free := rfl
@[simp] theorem answer8_escIdx (v : Byte) : (s.answer8 v).escIdx = s.escIdx := rfl

/-! `drawIf` -/

@[simp] theorem drawIf_est (c : Bool) : (s.drawIf c).est = s.est := rfl
@[simp] theorem drawIf_didx (c : Bool) : (s.drawIf c).didx = s.didx := rfl
@[simp] theorem drawIf_dlen (c : Bool) : (s.drawIf c).dlen = s.dlen := rfl
@[simp] theorem drawIf_dsum (c : Bool) : (s.drawIf c).dsum = s.dsum := rfl
@[simp] theorem drawIf_dwait (c : Bool) : (s.drawIf c).dwait = s.dwait := rfl
@[simp] theorem drawIf_encDone (c : Bool) : (s.drawIf c).encDone = s.encDone := rfl
@[simp] theorem drawIf_decDone (c : Bool) : (s.drawIf c).decDone = s.decDone := rfl
@[simp] theorem drawIf_cmdErr (c : Bool) : (s.drawIf c).cmdErr = s.cmdErr := rfl
@[simp] theorem drawIf_errCause (c : Bool) : (s.drawIf c).errCause = s.errCause := rfl
@[simp] theorem drawIf_intEn (c : Bool) : (s.drawIf c).intEn = s.intEn := rfl
@[simp] theorem drawIf_rxPolls (c : Bool) : (s.drawIf c).rxPolls = s.rxPolls := rfl
@[simp] theorem drawIf_seekLimit (c : Bool) : (s.drawIf c).seekLimit = s.seekLimit := rfl
@[simp] theorem drawIf_encFrameId (c : Bool) : (s.drawIf c).encFrameId = s.encFrameId := rfl
@[simp] theorem drawIf_encAddr16 (c : Bool) : (s.drawIf c).encAddr16 = s.encAddr16 := rfl
@[simp] theorem drawIf_encAddr64Lo (c : Bool) : (s.drawIf c).encAddr64Lo = s.encAddr64Lo := rfl
@[simp] theorem drawIf_encAddr64Hi (c : Bool) : (s.drawIf c).encAddr64Hi = s.encAddr64Hi := rfl
@[simp] theorem drawIf_encPayloadSize (c : Bool) : (s.drawIf c).encPayloadSize = s.encPayloadSize := rfl
@[simp] theorem drawIf_encLength (c : Bool) : (s.drawIf c).encLength = s.encLength := rfl
@[simp] theorem drawIf_decKind (c : Bool) : (s.drawIf c).decKind = s.decKind := rfl
@[simp] theorem drawIf_decLen (c : Bool) : (s.drawIf c).decLen = s.decLen := rfl
@[simp] theorem drawIf_decFtype (c : Bool) : (s.drawIf c).decFtype = s.decFtype := rfl
@[simp] theorem drawIf_decDiscards (c : Bool) : (s.drawIf c).decDiscards = s.decDiscards := rfl
@[simp] theorem drawIf_mem (c : Bool) : (s.drawIf c).mem = s.mem := rfl
@[simp] theorem drawIf_params (c : Bool) : (s.drawIf c).params = s.params := rfl
@[simp] theorem drawIf_events (c : Bool) : (s.drawIf c).events = s.events := rfl
@[simp] theorem drawIf_source (c : Bool) : (s.drawIf c).source = s.source := rfl
@[simp] theorem drawIf_rdata (c : Bool) : (s.drawIf c).rdata = s.rdata := rfl
@[simp] theorem drawIf_free (c : Bool) : (s.drawIf c).free = if c then s.free + 1 else s.free := rfl
@[simp] theorem drawIf_escIdx (c : Bool) : (s.drawIf c).escIdx = s.escIdx := rfl

/-! `setErr` -/

@[simp] theorem setErr_est (c : ErrCause) : (s.setErr c).est = s.est := rfl
@[simp] theorem setErr_didx (c : ErrCause) : (s.setErr c).didx = s.didx := rfl
@[simp] theorem setErr_dlen (c : ErrCause) : (s.setErr c).dlen = s.dlen := rfl
@[simp] theorem setErr_dsum (c : ErrCause) : (s.setErr c).dsum = s.dsum := rfl
@[simp] theorem setErr_dwait (c : ErrCause) : (s.setErr c).dwait = s.dwait := rfl
@[simp] theorem setErr_encDone (c : ErrCause) : (s.setErr c).encDone = s.encDone := rfl
@[simp] theorem setErr_decDone (c : ErrCause) : (s.setErr c).decDone = s.decDone := rfl
@[simp] theorem setErr_cmdErr (c : ErrCause) : (s.setErr c).cmdErr = true := rfl
@[simp] theorem setErr_errCause (c : ErrCause) : (s.setErr c).errCause = c := rfl
@[simp] theorem setErr_intEn (c : ErrCause) : (s.setErr c).intEn = s.intEn := rfl
@[simp] theorem setErr_rxPolls (c : ErrCause) : (s.setErr c).rxPolls = s.rxPolls := rfl
@[simp] theorem setErr_seekLimit (c : ErrCause) : (s.setErr c).seekLimit = s.seekLimit := rfl
@[simp] theorem setErr_encFrameId (c : ErrCause) : (s.setErr c).encFrameId = s.encFrameId := rfl
@[simp] theorem setErr_encAddr16 (c : ErrCause) : (s.setErr c).encAddr16 = s.encAddr16 := rfl
@[simp] theorem setErr_encAddr64Lo (c : ErrCause) : (s.setErr c).encAddr64Lo = s.encAddr64Lo := rfl
@[simp] theorem setErr_encAddr64Hi (c : ErrCause) : (s.setErr c).encAddr64Hi = s.encAddr64Hi := rfl
@[simp] theorem setErr_encPayloadSize (c : ErrCause) : (s.setErr c).encPayloadSize = s.encPayloadSize := rfl
@[simp] theorem setErr_encLength (c : ErrCause) : (s.setErr c).encLength = s.encLength := rfl
@[simp] theorem setErr_decKind (c : ErrCause) : (s.setErr c).decKind = s.decKind := rfl
@[simp] theorem setErr_decLen (c : ErrCause) : (s.setErr c).decLen = s.decLen := rfl
@[simp] theorem setErr_decFtype (c : ErrCause) : (s.setErr c).decFtype = s.decFtype := rfl
@[simp] theorem setErr_decDiscards (c : ErrCause) : (s.setErr c).decDiscards = s.decDiscards := rfl
@[simp] theorem setErr_mem (c : ErrCause) : (s.setErr c).mem = s.mem := rfl
@[simp] theorem setErr_params (c : ErrCause) : (s.setErr c).params = s.params := rfl
@[simp] theorem setErr_events (c : ErrCause) : (s.setErr c).events = s.events := rfl
@[simp] theorem setErr_source (c : ErrCause) : (s.setErr c).source = s.source := rfl
@[simp] theorem setErr_rdata (c : ErrCause) : (s.setErr c).rdata = s.rdata := rfl
@[simp] theorem setErr_free (c : ErrCause) : (s.setErr c).free = s.free := rfl
@[simp] theorem setErr_escIdx (c : ErrCause) : (s.setErr c).escIdx = s.escIdx := rfl

/-! `clearFlags` -/

@[simp] theorem clearFlags_est (v : Word) : (s.clearFlags v).est = s.est := rfl
@[simp] theorem clearFlags_didx (v : Word) : (s.clearFlags v).didx = s.didx := rfl
@[simp] theorem clearFlags_dlen (v : Word) : (s.clearFlags v).dlen = s.dlen := rfl
@[simp] theorem clearFlags_dsum (v : Word) : (s.clearFlags v).dsum = s.dsum := rfl
@[simp] theorem clearFlags_dwait (v : Word) : (s.clearFlags v).dwait = s.dwait := rfl
@[simp] theorem clearFlags_encDone (v : Word) : (s.clearFlags v).encDone = (s.encDone && !v.getLsbD 1) := rfl
@[simp] theorem clearFlags_decDone (v : Word) : (s.clearFlags v).decDone = (s.decDone && !v.getLsbD 2) := rfl
@[simp] theorem clearFlags_cmdErr (v : Word) : (s.clearFlags v).cmdErr = (s.cmdErr && !v.getLsbD 3) := rfl
@[simp] theorem clearFlags_errCause (v : Word) : (s.clearFlags v).errCause = if v.getLsbD 3 then .none else s.errCause := rfl
@[simp] theorem clearFlags_intEn (v : Word) : (s.clearFlags v).intEn = s.intEn := rfl
@[simp] theorem clearFlags_rxPolls (v : Word) : (s.clearFlags v).rxPolls = s.rxPolls := rfl
@[simp] theorem clearFlags_seekLimit (v : Word) : (s.clearFlags v).seekLimit = s.seekLimit := rfl
@[simp] theorem clearFlags_encFrameId (v : Word) : (s.clearFlags v).encFrameId = s.encFrameId := rfl
@[simp] theorem clearFlags_encAddr16 (v : Word) : (s.clearFlags v).encAddr16 = s.encAddr16 := rfl
@[simp] theorem clearFlags_encAddr64Lo (v : Word) : (s.clearFlags v).encAddr64Lo = s.encAddr64Lo := rfl
@[simp] theorem clearFlags_encAddr64Hi (v : Word) : (s.clearFlags v).encAddr64Hi = s.encAddr64Hi := rfl
@[simp] theorem clearFlags_encPayloadSize (v : Word) : (s.clearFlags v).encPayloadSize = s.encPayloadSize := rfl
@[simp] theorem clearFlags_encLength (v : Word) : (s.clearFlags v).encLength = s.encLength := rfl
@[simp] theorem clearFlags_decKind (v : Word) : (s.clearFlags v).decKind = s.decKind := rfl
@[simp] theorem clearFlags_decLen (v : Word) : (s.clearFlags v).decLen = s.decLen := rfl
@[simp] theorem clearFlags_decFtype (v : Word) : (s.clearFlags v).decFtype = s.decFtype := rfl
@[simp] theorem clearFlags_decDiscards (v : Word) : (s.clearFlags v).decDiscards = s.decDiscards := rfl
@[simp] theorem clearFlags_mem (v : Word) : (s.clearFlags v).mem = s.mem := rfl
@[simp] theorem clearFlags_params (v : Word) : (s.clearFlags v).params = s.params := rfl
@[simp] theorem clearFlags_events (v : Word) : (s.clearFlags v).events = s.events := rfl
@[simp] theorem clearFlags_source (v : Word) : (s.clearFlags v).source = s.source := rfl
@[simp] theorem clearFlags_rdata (v : Word) : (s.clearFlags v).rdata = s.rdata := rfl
@[simp] theorem clearFlags_free (v : Word) : (s.clearFlags v).free = s.free := rfl
@[simp] theorem clearFlags_escIdx (v : Word) : (s.clearFlags v).escIdx = s.escIdx := rfl

/-! `putBytes` -/

@[simp] theorem putBytes_est (b : Buf) (i : Nat) (l : List Byte) : (s.putBytes b i l).est = s.est := rfl
@[simp] theorem putBytes_didx (b : Buf) (i : Nat) (l : List Byte) : (s.putBytes b i l).didx = s.didx := rfl
@[simp] theorem putBytes_dlen (b : Buf) (i : Nat) (l : List Byte) : (s.putBytes b i l).dlen = s.dlen := rfl
@[simp] theorem putBytes_dsum (b : Buf) (i : Nat) (l : List Byte) : (s.putBytes b i l).dsum = s.dsum := rfl
@[simp] theorem putBytes_dwait (b : Buf) (i : Nat) (l : List Byte) : (s.putBytes b i l).dwait = s.dwait := rfl
@[simp] theorem putBytes_encDone (b : Buf) (i : Nat) (l : List Byte) : (s.putBytes b i l).encDone = s.encDone := rfl
@[simp] theorem putBytes_decDone (b : Buf) (i : Nat) (l : List Byte) : (s.putBytes b i l).decDone = s.decDone := rfl
@[simp] theorem putBytes_cmdErr (b : Buf) (i : Nat) (l : List Byte) : (s.putBytes b i l).cmdErr = s.cmdErr := rfl
@[simp] theorem putBytes_errCause (b : Buf) (i : Nat) (l : List Byte) : (s.putBytes b i l).errCause = s.errCause := rfl
@[simp] theorem putBytes_intEn (b : Buf) (i : Nat) (l : List Byte) : (s.putBytes b i l).intEn = s.intEn := rfl
@[simp] theorem putBytes_rxPolls (b : Buf) (i : Nat) (l : List Byte) : (s.putBytes b i l).rxPolls = s.rxPolls := rfl
@[simp] theorem putBytes_seekLimit (b : Buf) (i : Nat) (l : List Byte) : (s.putBytes b i l).seekLimit = s.seekLimit := rfl
@[simp] theorem putBytes_encFrameId (b : Buf) (i : Nat) (l : List Byte) : (s.putBytes b i l).encFrameId = s.encFrameId := rfl
@[simp] theorem putBytes_encAddr16 (b : Buf) (i : Nat) (l : List Byte) : (s.putBytes b i l).encAddr16 = s.encAddr16 := rfl
@[simp] theorem putBytes_encAddr64Lo (b : Buf) (i : Nat) (l : List Byte) : (s.putBytes b i l).encAddr64Lo = s.encAddr64Lo := rfl
@[simp] theorem putBytes_encAddr64Hi (b : Buf) (i : Nat) (l : List Byte) : (s.putBytes b i l).encAddr64Hi = s.encAddr64Hi := rfl
@[simp] theorem putBytes_encPayloadSize (b : Buf) (i : Nat) (l : List Byte) : (s.putBytes b i l).encPayloadSize = s.encPayloadSize := rfl
@[simp] theorem putBytes_encLength (b : Buf) (i : Nat) (l : List Byte) : (s.putBytes b i l).encLength = s.encLength := rfl
@[simp] theorem putBytes_decKind (b : Buf) (i : Nat) (l : List Byte) : (s.putBytes b i l).decKind = s.decKind := rfl
@[simp] theorem putBytes_decLen (b : Buf) (i : Nat) (l : List Byte) : (s.putBytes b i l).decLen = s.decLen := rfl
@[simp] theorem putBytes_decFtype (b : Buf) (i : Nat) (l : List Byte) : (s.putBytes b i l).decFtype = s.decFtype := rfl
@[simp] theorem putBytes_decDiscards (b : Buf) (i : Nat) (l : List Byte) : (s.putBytes b i l).decDiscards = s.decDiscards := rfl
@[simp] theorem putBytes_mem (b : Buf) (i : Nat) (l : List Byte) : (s.putBytes b i l).mem = Memory.store s.params b s.mem i l := rfl
@[simp] theorem putBytes_params (b : Buf) (i : Nat) (l : List Byte) : (s.putBytes b i l).params = s.params := rfl
@[simp] theorem putBytes_events (b : Buf) (i : Nat) (l : List Byte) : (s.putBytes b i l).events = s.events := rfl
@[simp] theorem putBytes_source (b : Buf) (i : Nat) (l : List Byte) : (s.putBytes b i l).source = s.source := rfl
@[simp] theorem putBytes_rdata (b : Buf) (i : Nat) (l : List Byte) : (s.putBytes b i l).rdata = s.rdata := rfl
@[simp] theorem putBytes_free (b : Buf) (i : Nat) (l : List Byte) : (s.putBytes b i l).free = s.free := rfl
@[simp] theorem putBytes_escIdx (b : Buf) (i : Nat) (l : List Byte) : (s.putBytes b i l).escIdx = s.escIdx := rfl

/-! `gotByte` -/

@[simp] theorem gotByte_est : s.gotByte.est = s.est := rfl
@[simp] theorem gotByte_didx : s.gotByte.didx = s.didx := rfl
@[simp] theorem gotByte_dlen : s.gotByte.dlen = s.dlen := rfl
@[simp] theorem gotByte_dsum : s.gotByte.dsum = s.dsum := rfl
@[simp] theorem gotByte_dwait : s.gotByte.dwait = 0 := rfl
@[simp] theorem gotByte_encDone : s.gotByte.encDone = s.encDone := rfl
@[simp] theorem gotByte_decDone : s.gotByte.decDone = s.decDone := rfl
@[simp] theorem gotByte_cmdErr : s.gotByte.cmdErr = s.cmdErr := rfl
@[simp] theorem gotByte_errCause : s.gotByte.errCause = s.errCause := rfl
@[simp] theorem gotByte_intEn : s.gotByte.intEn = s.intEn := rfl
@[simp] theorem gotByte_rxPolls : s.gotByte.rxPolls = s.rxPolls := rfl
@[simp] theorem gotByte_seekLimit : s.gotByte.seekLimit = s.seekLimit := rfl
@[simp] theorem gotByte_encFrameId : s.gotByte.encFrameId = s.encFrameId := rfl
@[simp] theorem gotByte_encAddr16 : s.gotByte.encAddr16 = s.encAddr16 := rfl
@[simp] theorem gotByte_encAddr64Lo : s.gotByte.encAddr64Lo = s.encAddr64Lo := rfl
@[simp] theorem gotByte_encAddr64Hi : s.gotByte.encAddr64Hi = s.encAddr64Hi := rfl
@[simp] theorem gotByte_encPayloadSize : s.gotByte.encPayloadSize = s.encPayloadSize := rfl
@[simp] theorem gotByte_encLength : s.gotByte.encLength = s.encLength := rfl
@[simp] theorem gotByte_decKind : s.gotByte.decKind = s.decKind := rfl
@[simp] theorem gotByte_decLen : s.gotByte.decLen = s.decLen := rfl
@[simp] theorem gotByte_decFtype : s.gotByte.decFtype = s.decFtype := rfl
@[simp] theorem gotByte_decDiscards : s.gotByte.decDiscards = s.decDiscards := rfl
@[simp] theorem gotByte_mem : s.gotByte.mem = s.mem := rfl
@[simp] theorem gotByte_params : s.gotByte.params = s.params := rfl
@[simp] theorem gotByte_events : s.gotByte.events = s.events := rfl
@[simp] theorem gotByte_source : s.gotByte.source = s.source := rfl
@[simp] theorem gotByte_rdata : s.gotByte.rdata = s.rdata := rfl
@[simp] theorem gotByte_free : s.gotByte.free = s.free := rfl
@[simp] theorem gotByte_escIdx : s.gotByte.escIdx = s.escIdx := rfl

/-! `popEvent` -/

@[simp] theorem popEvent_est : s.popEvent.est = s.est := rfl
@[simp] theorem popEvent_didx : s.popEvent.didx = s.didx := rfl
@[simp] theorem popEvent_dlen : s.popEvent.dlen = s.dlen := rfl
@[simp] theorem popEvent_dsum : s.popEvent.dsum = s.dsum := rfl
@[simp] theorem popEvent_dwait : s.popEvent.dwait = s.dwait := rfl
@[simp] theorem popEvent_encDone : s.popEvent.encDone = s.encDone := rfl
@[simp] theorem popEvent_decDone : s.popEvent.decDone = s.decDone := rfl
@[simp] theorem popEvent_cmdErr : s.popEvent.cmdErr = s.cmdErr := rfl
@[simp] theorem popEvent_errCause : s.popEvent.errCause = s.errCause := rfl
@[simp] theorem popEvent_intEn : s.popEvent.intEn = s.intEn := rfl
@[simp] theorem popEvent_rxPolls : s.popEvent.rxPolls = s.rxPolls := rfl
@[simp] theorem popEvent_seekLimit : s.popEvent.seekLimit = s.seekLimit := rfl
@[simp] theorem popEvent_encFrameId : s.popEvent.encFrameId = s.encFrameId := rfl
@[simp] theorem popEvent_encAddr16 : s.popEvent.encAddr16 = s.encAddr16 := rfl
@[simp] theorem popEvent_encAddr64Lo : s.popEvent.encAddr64Lo = s.encAddr64Lo := rfl
@[simp] theorem popEvent_encAddr64Hi : s.popEvent.encAddr64Hi = s.encAddr64Hi := rfl
@[simp] theorem popEvent_encPayloadSize : s.popEvent.encPayloadSize = s.encPayloadSize := rfl
@[simp] theorem popEvent_encLength : s.popEvent.encLength = s.encLength := rfl
@[simp] theorem popEvent_decKind : s.popEvent.decKind = s.decKind := rfl
@[simp] theorem popEvent_decLen : s.popEvent.decLen = s.decLen := rfl
@[simp] theorem popEvent_decFtype : s.popEvent.decFtype = s.decFtype := rfl
@[simp] theorem popEvent_decDiscards : s.popEvent.decDiscards = s.decDiscards := rfl
@[simp] theorem popEvent_mem : s.popEvent.mem = s.mem := rfl
@[simp] theorem popEvent_params : s.popEvent.params = s.params := rfl
@[simp] theorem popEvent_events : s.popEvent.events = s.events.tail := rfl
@[simp] theorem popEvent_source : s.popEvent.source = s.source := rfl
@[simp] theorem popEvent_rdata : s.popEvent.rdata = s.rdata := rfl
@[simp] theorem popEvent_free : s.popEvent.free = s.free := rfl
@[simp] theorem popEvent_escIdx : s.popEvent.escIdx = s.escIdx := rfl

/-! `finish` -/

@[simp] theorem finish_est (k : DecKind) : (s.finish k).est = .idle := rfl
@[simp] theorem finish_didx (k : DecKind) : (s.finish k).didx = s.didx := rfl
@[simp] theorem finish_dlen (k : DecKind) : (s.finish k).dlen = s.dlen := rfl
@[simp] theorem finish_dsum (k : DecKind) : (s.finish k).dsum = s.dsum := rfl
@[simp] theorem finish_dwait (k : DecKind) : (s.finish k).dwait = s.dwait := rfl
@[simp] theorem finish_encDone (k : DecKind) : (s.finish k).encDone = s.encDone := rfl
@[simp] theorem finish_decDone (k : DecKind) : (s.finish k).decDone = true := rfl
@[simp] theorem finish_cmdErr (k : DecKind) : (s.finish k).cmdErr = s.cmdErr := rfl
@[simp] theorem finish_errCause (k : DecKind) : (s.finish k).errCause = s.errCause := rfl
@[simp] theorem finish_intEn (k : DecKind) : (s.finish k).intEn = s.intEn := rfl
@[simp] theorem finish_rxPolls (k : DecKind) : (s.finish k).rxPolls = s.rxPolls := rfl
@[simp] theorem finish_seekLimit (k : DecKind) : (s.finish k).seekLimit = s.seekLimit := rfl
@[simp] theorem finish_encFrameId (k : DecKind) : (s.finish k).encFrameId = s.encFrameId := rfl
@[simp] theorem finish_encAddr16 (k : DecKind) : (s.finish k).encAddr16 = s.encAddr16 := rfl
@[simp] theorem finish_encAddr64Lo (k : DecKind) : (s.finish k).encAddr64Lo = s.encAddr64Lo := rfl
@[simp] theorem finish_encAddr64Hi (k : DecKind) : (s.finish k).encAddr64Hi = s.encAddr64Hi := rfl
@[simp] theorem finish_encPayloadSize (k : DecKind) : (s.finish k).encPayloadSize = s.encPayloadSize := rfl
@[simp] theorem finish_encLength (k : DecKind) : (s.finish k).encLength = s.encLength := rfl
@[simp] theorem finish_decKind (k : DecKind) : (s.finish k).decKind = k := rfl
@[simp] theorem finish_decLen (k : DecKind) : (s.finish k).decLen = DecKind.length s.dlen k := rfl
@[simp] theorem finish_decFtype (k : DecKind) : (s.finish k).decFtype = if k = .ok then s.bufByte .rxBuf 0 else typeNoValidFrame := rfl
@[simp] theorem finish_decDiscards (k : DecKind) : (s.finish k).decDiscards = s.decDiscards := rfl
@[simp] theorem finish_mem (k : DecKind) : (s.finish k).mem = s.mem := rfl
@[simp] theorem finish_params (k : DecKind) : (s.finish k).params = s.params := rfl
@[simp] theorem finish_events (k : DecKind) : (s.finish k).events = s.events := rfl
@[simp] theorem finish_source (k : DecKind) : (s.finish k).source = s.source := rfl
@[simp] theorem finish_rdata (k : DecKind) : (s.finish k).rdata = s.rdata := rfl
@[simp] theorem finish_free (k : DecKind) : (s.finish k).free = s.free := rfl
@[simp] theorem finish_escIdx (k : DecKind) : (s.finish k).escIdx = s.escIdx := rfl

/-! `startDecode` -/

@[simp] theorem startDecode_est : s.startDecode.est = .seek := rfl
@[simp] theorem startDecode_didx : s.startDecode.didx = 0 := rfl
@[simp] theorem startDecode_dlen : s.startDecode.dlen = 0 := rfl
@[simp] theorem startDecode_dsum : s.startDecode.dsum = 0 := rfl
@[simp] theorem startDecode_dwait : s.startDecode.dwait = 0 := rfl
@[simp] theorem startDecode_encDone : s.startDecode.encDone = s.encDone := rfl
@[simp] theorem startDecode_decDone : s.startDecode.decDone = s.decDone := rfl
@[simp] theorem startDecode_cmdErr : s.startDecode.cmdErr = s.cmdErr := rfl
@[simp] theorem startDecode_errCause : s.startDecode.errCause = s.errCause := rfl
@[simp] theorem startDecode_intEn : s.startDecode.intEn = s.intEn := rfl
@[simp] theorem startDecode_rxPolls : s.startDecode.rxPolls = s.rxPolls := rfl
@[simp] theorem startDecode_seekLimit : s.startDecode.seekLimit = s.seekLimit := rfl
@[simp] theorem startDecode_encFrameId : s.startDecode.encFrameId = s.encFrameId := rfl
@[simp] theorem startDecode_encAddr16 : s.startDecode.encAddr16 = s.encAddr16 := rfl
@[simp] theorem startDecode_encAddr64Lo : s.startDecode.encAddr64Lo = s.encAddr64Lo := rfl
@[simp] theorem startDecode_encAddr64Hi : s.startDecode.encAddr64Hi = s.encAddr64Hi := rfl
@[simp] theorem startDecode_encPayloadSize : s.startDecode.encPayloadSize = s.encPayloadSize := rfl
@[simp] theorem startDecode_encLength : s.startDecode.encLength = s.encLength := rfl
@[simp] theorem startDecode_decKind : s.startDecode.decKind = s.decKind := rfl
@[simp] theorem startDecode_decLen : s.startDecode.decLen = s.decLen := rfl
@[simp] theorem startDecode_decFtype : s.startDecode.decFtype = s.decFtype := rfl
@[simp] theorem startDecode_decDiscards : s.startDecode.decDiscards = 0 := rfl
@[simp] theorem startDecode_mem : s.startDecode.mem = s.mem := rfl
@[simp] theorem startDecode_params : s.startDecode.params = s.params := rfl
@[simp] theorem startDecode_events : s.startDecode.events = s.events := rfl
@[simp] theorem startDecode_source : s.startDecode.source = s.source := rfl
@[simp] theorem startDecode_rdata : s.startDecode.rdata = s.rdata := rfl
@[simp] theorem startDecode_free : s.startDecode.free = s.free := rfl
@[simp] theorem startDecode_escIdx : s.startDecode.escIdx = s.escIdx := rfl

/-! `completeEncode` -/

@[simp] theorem completeEncode_est : s.completeEncode.est = .idle := rfl
@[simp] theorem completeEncode_didx : s.completeEncode.didx = s.didx := rfl
@[simp] theorem completeEncode_dlen : s.completeEncode.dlen = s.dlen := rfl
@[simp] theorem completeEncode_dsum : s.completeEncode.dsum = s.dsum := rfl
@[simp] theorem completeEncode_dwait : s.completeEncode.dwait = s.dwait := rfl
@[simp] theorem completeEncode_encDone : s.completeEncode.encDone = true := rfl
@[simp] theorem completeEncode_decDone : s.completeEncode.decDone = s.decDone := rfl
@[simp] theorem completeEncode_cmdErr : s.completeEncode.cmdErr = s.cmdErr := rfl
@[simp] theorem completeEncode_errCause : s.completeEncode.errCause = s.errCause := rfl
@[simp] theorem completeEncode_intEn : s.completeEncode.intEn = s.intEn := rfl
@[simp] theorem completeEncode_rxPolls : s.completeEncode.rxPolls = s.rxPolls := rfl
@[simp] theorem completeEncode_seekLimit : s.completeEncode.seekLimit = s.seekLimit := rfl
@[simp] theorem completeEncode_encFrameId : s.completeEncode.encFrameId = s.encFrameId := rfl
@[simp] theorem completeEncode_encAddr16 : s.completeEncode.encAddr16 = s.encAddr16 := rfl
@[simp] theorem completeEncode_encAddr64Lo : s.completeEncode.encAddr64Lo = s.encAddr64Lo := rfl
@[simp] theorem completeEncode_encAddr64Hi : s.completeEncode.encAddr64Hi = s.encAddr64Hi := rfl
@[simp] theorem completeEncode_encPayloadSize : s.completeEncode.encPayloadSize = s.encPayloadSize := rfl
@[simp] theorem completeEncode_encLength : s.completeEncode.encLength = BitVec.ofNat 32 s.wire.length := rfl
@[simp] theorem completeEncode_decKind : s.completeEncode.decKind = s.decKind := rfl
@[simp] theorem completeEncode_decLen : s.completeEncode.decLen = s.decLen := rfl
@[simp] theorem completeEncode_decFtype : s.completeEncode.decFtype = s.decFtype := rfl
@[simp] theorem completeEncode_decDiscards : s.completeEncode.decDiscards = s.decDiscards := rfl
@[simp] theorem completeEncode_mem : s.completeEncode.mem = Memory.store s.params .txOut s.mem 0 s.wire := rfl
@[simp] theorem completeEncode_params : s.completeEncode.params = s.params := rfl
@[simp] theorem completeEncode_events : s.completeEncode.events = s.events := rfl
@[simp] theorem completeEncode_source : s.completeEncode.source = s.source := rfl
@[simp] theorem completeEncode_rdata : s.completeEncode.rdata = s.rdata := rfl
@[simp] theorem completeEncode_free : s.completeEncode.free = s.free := rfl
@[simp] theorem completeEncode_escIdx : s.completeEncode.escIdx = 0 := rfl

/-! `rst` -/

@[simp] theorem rst_est : s.rst.est = .idle := rfl
@[simp] theorem rst_didx : s.rst.didx = 0 := rfl
@[simp] theorem rst_dlen : s.rst.dlen = 0 := rfl
@[simp] theorem rst_dsum : s.rst.dsum = 0 := rfl
@[simp] theorem rst_dwait : s.rst.dwait = 0 := rfl
@[simp] theorem rst_encDone : s.rst.encDone = false := rfl
@[simp] theorem rst_decDone : s.rst.decDone = false := rfl
@[simp] theorem rst_cmdErr : s.rst.cmdErr = false := rfl
@[simp] theorem rst_errCause : s.rst.errCause = .none := rfl
@[simp] theorem rst_intEn : s.rst.intEn = 0 := rfl
@[simp] theorem rst_rxPolls : s.rst.rxPolls = 1 := rfl
@[simp] theorem rst_seekLimit : s.rst.seekLimit = 0 := rfl
@[simp] theorem rst_encFrameId : s.rst.encFrameId = 0 := rfl
@[simp] theorem rst_encAddr16 : s.rst.encAddr16 = 0 := rfl
@[simp] theorem rst_encAddr64Lo : s.rst.encAddr64Lo = 0 := rfl
@[simp] theorem rst_encAddr64Hi : s.rst.encAddr64Hi = 0 := rfl
@[simp] theorem rst_encPayloadSize : s.rst.encPayloadSize = 0 := rfl
@[simp] theorem rst_encLength : s.rst.encLength = 0 := rfl
@[simp] theorem rst_decKind : s.rst.decKind = .none := rfl
@[simp] theorem rst_decLen : s.rst.decLen = 0 := rfl
@[simp] theorem rst_decFtype : s.rst.decFtype = 0 := rfl
@[simp] theorem rst_decDiscards : s.rst.decDiscards = 0 := rfl
@[simp] theorem rst_mem : s.rst.mem = s.mem := rfl
@[simp] theorem rst_params : s.rst.params = s.params := rfl
@[simp] theorem rst_events : s.rst.events = s.events := rfl
@[simp] theorem rst_source : s.rst.source = s.source := rfl
@[simp] theorem rst_rdata : s.rst.rdata = s.rdata := rfl
@[simp] theorem rst_free : s.rst.free = s.free := rfl
@[simp] theorem rst_escIdx : s.rst.escIdx = 0 := rfl

end Sys2Proof.Machine.State
end

