-- ==== Sys2Proof/Laws/Memory.lean ====
section
/-! SUPPORT. The memory's laws: read after write, the canonical form kept by every memory operation, and equality of
canonical memories that read alike. -/

namespace Sys2Proof.Machine

@[simp] theorem Memory.read_nil (a : Nat) : Memory.read [] a = none := rfl

theorem Memory.read_cons (c : Host.Cell) (m : Memory) (a : Nat) :
    Memory.read (c :: m) a = if c.1 = a then some c.2 else Memory.read m a := rfl

theorem Memory.read_write_same (m : Memory) (a : Nat) (v : Byte) :
    Memory.read (Memory.write m a v) a = some v := by
  induction m with
  | nil => simp [Memory.write, Memory.read]
  | cons c m ih =>
    unfold Memory.write
    split
    · simp [Memory.read]
    · split
      · simp [Memory.read]
      · have : c.1 ≠ a := by omega
        simp [Memory.read, this, ih]

theorem Memory.read_write_other (m : Memory) {a b : Nat} (v : Byte) (h : b ≠ a) :
    Memory.read (Memory.write m a v) b = Memory.read m b := by
  have h' : a ≠ b := fun e => h e.symm
  induction m with
  | nil => simp [Memory.write, Memory.read, h']
  | cons c m ih =>
    unfold Memory.write
    split
    · simp [Memory.read, h']
    · split
      · have : c.1 ≠ b := by omega
        simp [Memory.read, h', this]
      · simp [Memory.read, ih]

theorem Memory.mem_write {m : Memory} {a : Nat} {v : Byte} {c : Host.Cell}
    (h : c ∈ Memory.write m a v) : c = (a, v) ∨ c ∈ m := by
  induction m with
  | nil => simpa [Memory.write] using h
  | cons d m ih =>
    unfold Memory.write at h
    split at h
    · simpa using h
    · split at h
      · rcases List.mem_cons.1 h with h | h
        · exact .inl h
        · exact .inr (List.mem_cons_of_mem _ h)
      · rcases List.mem_cons.1 h with h | h
        · exact .inr (h ▸ List.mem_cons_self ..)
        · exact (ih h).imp id (List.mem_cons_of_mem _)

theorem Memory.write_wf {m : Memory} (a : Nat) (v : Byte) (h : Memory.wf m) :
    Memory.wf (Memory.write m a v) := by
  induction m with
  | nil => simp [Memory.write, Memory.wf]
  | cons c m ih =>
    obtain ⟨hc, hm⟩ := List.pairwise_cons.1 h
    unfold Memory.write
    split
    · rename_i lt
      refine List.pairwise_cons.2 ⟨fun d hd => ?_, h⟩
      rcases List.mem_cons.1 hd with rfl | hd
      · exact lt
      · exact lt.trans (hc d hd)
    · split
      · rename_i eq
        exact List.pairwise_cons.2 ⟨fun d hd => eq ▸ hc d hd, hm⟩
      · refine List.pairwise_cons.2 ⟨fun d hd => ?_, ih hm⟩
        rcases Memory.mem_write hd with rfl | hd
        · show c.1 < a
          omega
        · exact hc d hd

theorem Memory.read_none_of_lt {m : Memory} {a : Nat} (h : ∀ c ∈ m, a < c.1) :
    Memory.read m a = none := by
  induction m with
  | nil => rfl
  | cons c m ih =>
    have hc := h c (List.mem_cons_self ..)
    rw [Memory.read_cons, if_neg (by omega)]
    exact ih fun d hd => h d (List.mem_cons_of_mem _ hd)

/-- Canonical memories that read alike are equal data. -/
theorem Memory.ext_of_read {m n : Memory} (hm : Memory.wf m) (hn : Memory.wf n)
    (h : ∀ a, Memory.read m a = Memory.read n a) : m = n := by
  induction m generalizing n with
  | nil =>
    cases n with
    | nil => rfl
    | cons d n => simpa [Memory.read] using h d.1
  | cons c m ih =>
    obtain ⟨hc, hm'⟩ := List.pairwise_cons.1 hm
    cases n with
    | nil => simpa [Memory.read] using h c.1
    | cons d n =>
      obtain ⟨hd, hn'⟩ := List.pairwise_cons.1 hn
      have key : c.1 = d.1 := by
        rcases Nat.lt_trichotomy c.1 d.1 with lt | eq | gt
        · have := h c.1
          rw [Memory.read_cons, if_pos rfl, Memory.read_cons, if_neg (by omega),
            Memory.read_none_of_lt fun e he => lt.trans (hd e he)] at this
          cases this
        · exact eq
        · have := h d.1
          rw [Memory.read_cons d, if_pos rfl, Memory.read_cons c, if_neg (by omega),
            Memory.read_none_of_lt fun e he => gt.trans (hc e he)] at this
          cases this
      have hv : c.2 = d.2 := by
        have := h c.1
        rw [Memory.read_cons, if_pos rfl, Memory.read_cons, if_pos key.symm] at this
        exact Option.some.inj this
      have hcd : c = d := Prod.ext key hv
      subst hcd
      congr 1
      refine ih hm' hn' fun a => ?_
      by_cases ha : c.1 = a
      · subst ha
        rw [Memory.read_none_of_lt hc, Memory.read_none_of_lt hd]
      · have := h a
        rwa [Memory.read_cons, if_neg ha, Memory.read_cons, if_neg ha] at this

@[simp] theorem Memory.store_nil (p : Params) (b : Buf) (m : Memory) (i : Nat) :
    Memory.store p b m i [] = m := rfl

theorem Memory.store_cons (p : Params) (b : Buf) (m : Memory) (i : Nat) (v : Byte) (l : List Byte) :
    Memory.store p b m i (v :: l) =
      Memory.store p b (if i < Buf.size p b then Memory.write m (Buf.base b + i) v else m) (i + 1) l :=
  rfl

theorem Memory.store_wf (p : Params) (b : Buf) (l : List Byte) {m : Memory} (i : Nat) (h : Memory.wf m) :
    Memory.wf (Memory.store p b m i l) := by
  induction l generalizing m i with
  | nil => exact h
  | cons v l ih =>
    rw [Memory.store_cons]
    refine ih _ ?_
    split
    · exact Memory.write_wf _ _ h
    · exact h

/-- A stored entry was there before, or lies in the buffer. -/
theorem Memory.mem_store {p : Params} {b : Buf} {l : List Byte} {m : Memory} {i : Nat} {c : Host.Cell}
    (h : c ∈ Memory.store p b m i l) :
    c ∈ m ∨ Buf.base b ≤ c.1 ∧ c.1 < Buf.base b + Buf.size p b := by
  induction l generalizing m i with
  | nil => exact .inl h
  | cons v l ih =>
    rw [Memory.store_cons] at h
    rcases ih h with h | h
    · split at h
      · rcases Memory.mem_write h with rfl | h
        · right
          dsimp only
          omega
        · exact .inl h
      · exact .inl h
    · exact .inr h

/-- What a store leaves at an address: byte `k` of the list at index `i + k` below the size, else the old byte. -/
theorem Memory.read_store (p : Params) (b : Buf) (l : List Byte) (m : Memory) (i a : Nat) :
    Memory.read (Memory.store p b m i l) a =
      if Buf.base b + i ≤ a ∧ a < Buf.base b + i + l.length ∧ a < Buf.base b + Buf.size p b then
        l[a - (Buf.base b + i)]?
      else Memory.read m a := by
  induction l generalizing m i with
  | nil =>
    rw [Memory.store_nil, if_neg]
    simp only [List.length_nil]
    omega
  | cons v l ih =>
    rw [Memory.store_cons, ih]
    simp only [List.length_cons]
    by_cases ha : a = Buf.base b + i
    · subst ha
      rw [if_neg (by omega)]
      by_cases hi : i < Buf.size p b
      · rw [if_pos hi, Memory.read_write_same, if_pos (by omega)]
        simp
      · rw [if_neg hi, if_neg (by omega)]
    · have hw : Memory.read (if i < Buf.size p b then Memory.write m (Buf.base b + i) v else m) a =
          Memory.read m a := by
        split
        · exact Memory.read_write_other _ _ ha
        · rfl
      rw [hw]
      by_cases hc : Buf.base b + (i + 1) ≤ a ∧ a < Buf.base b + (i + 1) + l.length ∧
          a < Buf.base b + Buf.size p b
      · rw [if_pos hc, if_pos (by omega)]
        have : a - (Buf.base b + i) = (a - (Buf.base b + (i + 1))) + 1 := by omega
        rw [this, List.getElem?_cons_succ]
      · rw [if_neg hc, if_neg (by omega)]

/-- The buffer read depends on the memory only. -/
theorem State.bufByte_congr {s t : State} (h : s.mem = t.mem) (b : Buf) (i : Nat) :
    s.bufByte b i = t.bufByte b i := by
  simp [State.bufByte, h]

@[simp] theorem State.bufBytes_length (s : State) (b : Buf) (i n : Nat) : (s.bufBytes b i n).length = n := by
  simp [State.bufBytes]

theorem State.bufBytes_congr {s t : State} (b : Buf) (i n : Nat)
    (h : ∀ k, k < n → s.bufByte b (i + k) = t.bufByte b (i + k)) : s.bufBytes b i n = t.bufBytes b i n := by
  simp only [State.bufBytes]
  exact List.map_congr_left fun k hk => h k (List.mem_range.1 hk)

theorem State.bufBytes_succ (s : State) (b : Buf) (i n : Nat) :
    s.bufBytes b i (n + 1) = s.bufBytes b i n ++ [s.bufByte b (i + n)] := by
  simp [State.bufBytes, List.range_succ]

end Sys2Proof.Machine
end

