-- ==== Sys2Proof/Laws/Effects.lean ====
section
/-! SUPPORT. What a step can do, said once: the effect of a host access, of a poll, of an escape, and the cases of a
step. Later proofs cite these instead of unfolding the meanings. -/

namespace Sys2Proof.Machine

/-- What a host access can do to the state. -/
inductive HostEffect (s : State) : State → Prop
  | same : HostEffect s s
  | read (v : Word) (n : Nat) : HostEffect s { s with rdata := v, free := n }
  | err (c : ErrCause) (h : c ≠ .none) : HostEffect s (s.setErr c)
  | encSize (h : s.est = .idle) : HostEffect s { s.setErr .encSize with encLength := 0 }
  | startEncode (h : s.est = .idle) (fit : s.payloadSize ≤ s.params.txPayloadCap) :
      HostEffect s { s with est := .encRun, escIdx := 0 }
  | startDecode (h : s.est = .idle) : HostEffect s s.startDecode
  | clear (v : Word) : HostEffect s (s.clearFlags v)
  | intEn (w : BitVec 3) : HostEffect s { s with intEn := w }
  | rxPolls (h : s.est = .idle) (w : Half) (hw : w ≠ 0) : HostEffect s { s with rxPolls := w }
  | seekLimit (h : s.est = .idle) (w : Half) : HostEffect s { s with seekLimit := w }
  | frameId (h : s.est = .idle) (w : Byte) : HostEffect s { s with encFrameId := w }
  | addr16 (h : s.est = .idle) (w : Half) : HostEffect s { s with encAddr16 := w }
  | addr64Lo (h : s.est = .idle) (w : Word) : HostEffect s { s with encAddr64Lo := w }
  | addr64Hi (h : s.est = .idle) (w : Word) : HostEffect s { s with encAddr64Hi := w }
  | payloadSize (h : s.est = .idle) (w : Half) : HostEffect s { s with encPayloadSize := w }
  | payload (h : s.est = .idle) (i : Nat) (l : List Byte) : HostEffect s (s.putBytes .txPayload i l)

/-- What a poll can do to the state. -/
inductive PollEffect (s : State) : State → Prop
  | delim (h : s.est = .seek) : PollEffect s { s.gotByte with est := .len, didx := 0 }
  | discard (h : s.est = .seek) : PollEffect s s.gotByte.discard
  | framing (h : s.est.reading = true) : PollEffect s (s.gotByte.finish .framing)
  | lenEsc (h : s.est = .len) : PollEffect s { s.gotByte with est := .lenEsc }
  | bodyEsc (h : s.est = .body) : PollEffect s { s.gotByte with est := .bodyEsc }
  | acceptLen (h : s.est = .len ∨ s.est = .lenEsc) (v : Byte) : PollEffect s (s.gotByte.acceptLen v)
  | acceptBody (h : s.est = .body ∨ s.est = .bodyEsc) (v : Byte) : PollEffect s (s.gotByte.acceptBody v)
  | empty (h : s.est.reading = true) : PollEffect s s.emptyPoll

/-- What the escape stage can do to the state: write some wire bytes for the byte it takes. -/
inductive EscapeEffect (s : State) : State → Prop
  | emit (x : Byte) (w : List Byte) (h : s.escapeNext = some x) : EscapeEffect s (s.emit w)

/-- The rows of the host. -/
def Instr.ofHost : Instr → Bool
  | .nop _ | .encode _ | .decode _ | .rsvdOp _ => true
  | .regCmd _ | .regStatus _ | .regIntEn _ | .regRxPolls _ | .regSeekLimit _ | .regEncFrameId _
  | .regEncAddr16 _ | .regEncAddr64Lo _ | .regEncAddr64Hi _ | .regEncPayloadSize _ | .regEncLength _
  | .regDecKind _ | .regDecLen _ | .regDecFtype _ | .regDecDiscards _ => true
  | .winRxBuf _ _ | .winTxPayload _ _ | .winTxOut _ _ | .reservedSpace _ _ => true
  | _ => false

/-- The rows of a poll. -/
def Instr.ofPoll : Instr → Bool
  | .rxSeekDelim | .rxSeekDiscard _ | .rxLenDelim | .rxLenEsc | .rxLenData _ | .rxLenEscDelim
  | .rxLenEscData _ | .rxBodyDelim | .rxBodyEsc | .rxBodyData _ | .rxBodyEscDelim | .rxBodyEscData _
  | .rxEmpty _ | .ftTxRequest | .ftRxIndication | .ftNoValidFrame => true
  | _ => false

/-- The rows of the escape stage. -/
def Instr.ofEscape : Instr → Bool
  | .txEsc7E | .txEsc7D | .txEsc11 | .txEsc13 | .txPlain _ => true
  | _ => false

theorem State.busy_eq (s : State) : s.busy = true ↔ s.est ≠ .idle := by simp [State.busy]

theorem State.not_busy (s : State) : ¬s.busy = true ↔ s.est = .idle := by simp [State.busy]

/-- An engine-input write is made with the engine IDLE, else recorded. -/
theorem inputWrite_cases (s w : State) :
    (s.est = .idle ∧ s.inputWrite w = w) ∨ (s.est ≠ .idle ∧ s.inputWrite w = s.setErr .busyWrite) := by
  by_cases h : s.est = .idle
  · exact .inl ⟨h, by simp [State.inputWrite, State.busy, h]⟩
  · exact .inr ⟨h, by simp [State.inputWrite, State.busy, h]⟩

theorem HostEffect.input {s w : State} (h : s.est = .idle → HostEffect s w) :
    HostEffect s (s.inputWrite w) := by
  rcases inputWrite_cases s w with ⟨hi, e⟩ | ⟨_, e⟩
  · rw [e]
    exact h hi
  · rw [e]
    exact .err _ (by decide)

theorem HostEffect.ofStartEncode {s : State} (h : s.est = .idle) : HostEffect s s.startEncode := by
  unfold State.startEncode
  split
  · exact .encSize h
  · exact .startEncode h (by omega)

theorem HostEffect.ofWriteCmd (s : State) (v : Word) : HostEffect s (s.writeCmd v) := by
  unfold State.writeCmd
  split
  · exact .same
  · split
    · exact .err _ (by decide)
    · split
      · exact .err _ (by decide)
      · rename_i hb
        split
        · exact .ofStartEncode ((State.not_busy s).1 hb)
        · exact .startDecode ((State.not_busy s).1 hb)

theorem HostEffect.ofUnlessBusy {s w : State} (h : s.est = .idle → HostEffect s w) :
    HostEffect s (s.unlessBusy w) := by
  unfold State.unlessBusy
  split
  · exact .err _ (by decide)
  · rename_i hb
    exact h ((State.not_busy s).1 hb)

theorem HostEffect.ofReadWin (s : State) (b : Buf) (i : Nat) (wide : Bool) :
    HostEffect s (s.readWin b i wide) := by
  unfold State.readWin
  split
  · exact .read _ _
  · exact .read _ _

/-- What an admitted register access can do, from what its write can do. -/
theorem HostEffect.ofRegOp {acc : RegAccess} {v : Word} {f : Word → State} {s t : State}
    (hf : ∀ w, HostEffect s (f w)) (h : regOp acc v f s = .next t) : HostEffect s t := by
  cases acc
  · cases h
    exact .read v s.free
  · cases h
    exact hf _

/-- What a window access can do, from what its write can do. -/
theorem HostEffect.ofWinOp {b : Buf} {i : Nat} {acc : WinAccess} {f : List Byte → State} {s t : State}
    (hf : ∀ l, HostEffect s (f l)) (h : winOp b i acc f s = .next t) : HostEffect s t := by
  unfold winOp at h
  split at h
  · cases acc <;> cases h
    · exact .ofReadWin s b i false
    · exact .ofReadWin s b i true
    · exact hf _
    · exact hf _
  · cases h

theorem legalPolls_ne_zero (v : Word) : legalPolls v ≠ 0 := by
  unfold legalPolls
  dsimp only
  split
  · decide
  · assumption

/-- What a host row can do. -/
theorem exec_host_effect {i : Instr} {s t : State} (hi : Instr.ofHost i = true) (h : exec i s = .next t) :
    HostEffect s t := by
  cases i <;> first | (cases hi; done) | skip
  case nop ign => cases h; exact .same
  case encode ign => cases h; exact .ofUnlessBusy .ofStartEncode
  case decode ign => cases h; exact .ofUnlessBusy .startDecode
  case rsvdOp ign => cases h; exact .err _ (by decide)
  case regCmd acc => exact .ofRegOp (HostEffect.ofWriteCmd s) h
  case regStatus acc => exact .ofRegOp (fun w => .clear w) h
  case regIntEn acc => exact .ofRegOp (fun w => .intEn _) h
  case regRxPolls acc => exact .ofRegOp (fun w => .input fun hi => .rxPolls hi _ (legalPolls_ne_zero w)) h
  case regSeekLimit acc => exact .ofRegOp (fun w => .input fun hi => .seekLimit hi _) h
  case regEncFrameId acc => exact .ofRegOp (fun w => .input fun hi => .frameId hi _) h
  case regEncAddr16 acc => exact .ofRegOp (fun w => .input fun hi => .addr16 hi _) h
  case regEncAddr64Lo acc => exact .ofRegOp (fun w => .input fun hi => .addr64Lo hi _) h
  case regEncAddr64Hi acc => exact .ofRegOp (fun w => .input fun hi => .addr64Hi hi _) h
  case regEncPayloadSize acc => exact .ofRegOp (fun w => .input fun hi => .payloadSize hi _) h
  case regEncLength acc =>
    cases acc
    · simp only [exec, execRegEncLength] at h
      split at h
      · cases h; exact .read _ _
      · cases h; exact .read _ s.free
    · cases h; exact .same
  case regDecKind acc => exact .ofRegOp (fun _ => .same) h
  case regDecLen acc => exact .ofRegOp (fun _ => .same) h
  case regDecFtype acc => exact .ofRegOp (fun _ => .same) h
  case regDecDiscards acc => exact .ofRegOp (fun _ => .same) h
  case winRxBuf off acc => exact .ofWinOp (fun _ => .same) h
  case winTxOut off acc => exact .ofWinOp (fun _ => .same) h
  case winTxPayload off acc =>
    refine .ofWinOp (fun l => ?_) h
    unfold State.writePayload
    split
    · exact .input fun hi => .payload hi _ _
    · exact .same
  case reservedSpace a acc =>
    simp only [exec, execReservedSpace] at h
    split at h
    · cases acc <;> cases h
      · exact .read _ s.free
      · exact .read _ s.free
      · exact .same
      · exact .same
    · cases h

/-- A poll step that answers a next state is enabled, and does what it says. -/
theorem pollIn_next {e : Est} {s t u : State} (h : pollIn e s t = .next u) : s.est = e ∧ u = t := by
  unfold pollIn at h
  split at h
  · cases h; exact ⟨‹_›, rfl⟩
  · cases h

theorem pollIn_enabled {e : Est} {s t : State} (h : s.est = e) : pollIn e s t = .next t := if_pos h

theorem State.atFrameType_iff (s : State) : s.atFrameType = true ↔
    (s.est = .body ∨ s.est = .bodyEsc) ∧ s.didx = 0 ∧ s.dlen ≠ 0 := by
  simp [State.atFrameType, and_assoc]

theorem State.atFrameType_lt {s : State} (h : s.atFrameType = true) : s.didx < s.dlen := by
  obtain ⟨_, h0, hn⟩ := (State.atFrameType_iff s).1 h
  rw [h0, BitVec.lt_def]
  have : s.dlen.toNat ≠ 0 := fun e => hn (BitVec.eq_of_toNat_eq (by simpa using e))
  simp
  omega

/-- A frame-type byte that is accepted is accepted by the rule of every body byte. -/
theorem acceptType_next {x : Byte} {s t : State} (h : acceptType x s = .next t) :
    s.atFrameType = true ∧ t = s.gotByte.acceptBody x := by
  unfold acceptType at h
  split at h
  · rename_i ha
    cases h
    refine ⟨ha, ?_⟩
    have : s.gotByte.didx < s.gotByte.dlen := State.atFrameType_lt ha
    rw [State.acceptBody, if_pos this]
  · cases h

/-- What a poll row can do. -/
theorem exec_poll_effect {i : Instr} {s t : State} (hi : Instr.ofPoll i = true) (h : exec i s = .next t) :
    PollEffect s t := by
  have reading {e : Est} (hs : s.est = e) (he : e.reading = true) : s.est.reading = true := hs ▸ he
  cases i <;> first | (cases hi; done) | skip
  case rxSeekDelim => obtain ⟨hs, rfl⟩ := pollIn_next h; exact .delim hs
  case rxSeekDiscard b => obtain ⟨hs, rfl⟩ := pollIn_next h; exact .discard hs
  case rxLenDelim => obtain ⟨hs, rfl⟩ := pollIn_next h; exact .framing (reading hs rfl)
  case rxLenEsc => obtain ⟨hs, rfl⟩ := pollIn_next h; exact .lenEsc hs
  case rxLenData b => obtain ⟨hs, rfl⟩ := pollIn_next h; exact .acceptLen (.inl hs) _
  case rxLenEscDelim => obtain ⟨hs, rfl⟩ := pollIn_next h; exact .framing (reading hs rfl)
  case rxLenEscData b => obtain ⟨hs, rfl⟩ := pollIn_next h; exact .acceptLen (.inr hs) _
  case rxBodyDelim => obtain ⟨hs, rfl⟩ := pollIn_next h; exact .framing (reading hs rfl)
  case rxBodyEsc => obtain ⟨hs, rfl⟩ := pollIn_next h; exact .bodyEsc hs
  case rxBodyData b => obtain ⟨hs, rfl⟩ := pollIn_next h; exact .acceptBody (.inl hs) _
  case rxBodyEscDelim => obtain ⟨hs, rfl⟩ := pollIn_next h; exact .framing (reading hs rfl)
  case rxBodyEscData b => obtain ⟨hs, rfl⟩ := pollIn_next h; exact .acceptBody (.inr hs) _
  case rxEmpty e =>
    simp only [exec, execRxEmpty] at h
    split at h
    · obtain ⟨hs, rfl⟩ := pollIn_next h; exact .empty (reading hs ‹_›)
    · cases h
  case ftTxRequest =>
    obtain ⟨ha, rfl⟩ := acceptType_next h
    exact .acceptBody ((State.atFrameType_iff s).1 ha).1 _
  case ftRxIndication =>
    obtain ⟨ha, rfl⟩ := acceptType_next h
    exact .acceptBody ((State.atFrameType_iff s).1 ha).1 _
  case ftNoValidFrame =>
    obtain ⟨ha, rfl⟩ := acceptType_next h
    exact .acceptBody ((State.atFrameType_iff s).1 ha).1 _

/-- An escape that answers a next state is enabled, and writes what it says. -/
theorem escapeStage_next {x : Byte} {w : List Byte} {s t : State} (h : escapeStage x w s = .next t) :
    s.escapeNext = some x ∧ t = s.emit w := by
  unfold escapeStage at h
  split at h
  · cases h; exact ⟨‹_›, rfl⟩
  · cases h

theorem escapeStage_enabled {x : Byte} {w : List Byte} {s : State} (h : s.escapeNext = some x) :
    escapeStage x w s = .next (s.emit w) := if_pos h

/-- What an escape row can do. -/
theorem exec_escape_effect {i : Instr} {s t : State} (hi : Instr.ofEscape i = true)
    (h : exec i s = .next t) : EscapeEffect s t := by
  cases i <;> first | (cases hi; done) | skip
  case txEsc7E => obtain ⟨hx, rfl⟩ := escapeStage_next h; exact .emit _ _ hx
  case txEsc7D => obtain ⟨hx, rfl⟩ := escapeStage_next h; exact .emit _ _ hx
  case txEsc11 => obtain ⟨hx, rfl⟩ := escapeStage_next h; exact .emit _ _ hx
  case txEsc13 => obtain ⟨hx, rfl⟩ := escapeStage_next h; exact .emit _ _ hx
  case txPlain x => obtain ⟨hx, rfl⟩ := escapeStage_next h; exact .emit _ _ hx

/-- The row of a logical byte at the escape stage writes the wire form of R73. -/
theorem exec_decodeTx {x : Byte} {s : State} (h : s.escapeNext = some x) :
    exec (decodeTx x) s = .next (s.emit (esc x)) := by
  by_cases h1 : x = 0x7E
  · subst h1; exact escapeStage_enabled h
  by_cases h2 : x = 0x7D
  · subst h2; exact escapeStage_enabled h
  by_cases h3 : x = 0x11
  · subst h3; exact escapeStage_enabled h
  by_cases h4 : x = 0x13
  · subst h4; exact escapeStage_enabled h
  have : esc x = [x] := by
    rw [esc, if_neg]
    simp only [inRSV, Bool.or_eq_true, beq_iff_eq]
    tauto
  rw [decodeTx, if_neg h1, if_neg h2, if_neg h3, if_neg h4, this]
  exact escapeStage_enabled h

/-- The rows a host access can meet are the host's. -/
theorem ofHost_of_access {t : Transaction} {i : Instr} (h : decode (accessCode t) = .row i) :
    Instr.ofHost i = true := by
  have hbus : ∀ t i, decode (.bus t) = .row i → Instr.ofHost i = true := by
    intro t i h
    simp only [decode, decodeBus] at h
    split at h
    · split at h
      · cases h
        unfold regRow
        split <;> rfl
      · cases h
    · split at h
      · cases h
        unfold winRow
        (repeat' split) <;> rfl
      · cases h
  unfold accessCode at h
  split at h
  · split at h
    · simp only [decode, decodeCmd] at h
      split at h <;> cases h <;> rfl
    · exact hbus _ _ h
  · exact hbus _ _ h

/-- Decoding an RXBYTE word gives R82's class of its state and byte. -/
theorem decode_rxCode (e : Est) (b : Byte) : decode (rxCode e b) = .ofOption (decodeRx e b) := by
  have hb := b.isLt
  have h2 : BitVec.setWidth 8 (BitVec.ofNat 11 (256 * e.code + b.toNat)) = b := by
    apply BitVec.eq_of_toNat_eq
    simp only [BitVec.toNat_setWidth, BitVec.toNat_ofNat]
    omega
  have h1 : (BitVec.ofNat 11 (256 * e.code + b.toNat)).toNat / 256 = e.code := by
    simp only [BitVec.toNat_ofNat]
    cases e <;> simp only [Est.code] <;> omega
  simp only [decode, rxCode]
  rw [h1, h2]
  cases e <;> rfl

theorem decodeRx_ofPoll {e : Est} {b : Byte} {i : Instr} (h : decodeRx e b = some i) :
    Instr.ofPoll i = true := by
  cases e <;> simp only [decodeRx] at h <;> first | (cases h; done) | skip
  all_goals
    simp only [Option.some.injEq] at h
    subst h
    (repeat' split) <;> rfl

/-- In a reading state every raw byte has a class. -/
theorem decodeRx_isSome {e : Est} (h : e.reading = true) (b : Byte) : ∃ i, decodeRx e b = some i := by
  cases e <;> first | (cases h; done) | exact ⟨_, rfl⟩

theorem decodeType_ofPoll {x : Byte} {i : Instr} (h : decodeType x = some i) : Instr.ofPoll i = true := by
  unfold decodeType at h
  (repeat' split at h) <;> cases h <;> rfl

/-- The word of a poll decodes to a row of a poll. -/
theorem pollCode_row {s : State} (h : s.est.reading = true) (b : Byte) :
    ∃ i, decode (s.pollCode b) = .row i ∧ Instr.ofPoll i = true := by
  obtain ⟨j, hj⟩ := decodeRx_isSome h b
  have raw : ∃ i, decode (rxCode s.est b) = .row i ∧ Instr.ofPoll i = true :=
    ⟨j, by rw [decode_rxCode, hj]; rfl, decodeRx_ofPoll hj⟩
  unfold State.pollCode
  split
  · split
    · rename_i hx
      obtain ⟨i, hi⟩ := Option.isSome_iff_exists.1 hx
      exact ⟨i, by simp [decode, hi, Decoded.ofOption], decodeType_ofPoll hi⟩
    · exact raw
  · exact raw

theorem rxPoll_row {e : Est} (h : e.reading = true) :
    decode (.rxPoll (BitVec.ofNat 3 e.code)) = .row (.rxEmpty e) := by
  cases e <;> first | (cases h; done) | rfl

theorem decodeTx_ofEscape (x : Byte) : Instr.ofEscape (decodeTx x) = true := by
  unfold decodeTx
  (repeat' split) <;> rfl

/-- What a step that answers a next state did: an access, a poll, an escape, the ENCODE completion, `rst`, or nothing. -/
theorem step_next_cases {s t : State} (h : step s = .next t) :
    (∃ a i, s.nextEvent = .access a ∧ decode (accessCode a) = .row i ∧ Instr.ofHost i = true ∧
      exec i s.popEvent = .next t ∧ HostEffect s.popEvent t) ∨
    (s.nextEvent = .engine ∧ s.est.reading = true ∧ PollEffect s.popEvent.popAnswer t) ∨
    (∃ x, s.nextEvent = .escape ∧ s.escapeNext = some x ∧ t = s.popEvent.emit (esc x)) ∨
    (s.nextEvent = .engine ∧ s.est = .encRun ∧ t = s.popEvent.completeEncode) ∨
    (s.nextEvent = .rst ∧ t = s.popEvent.rst) ∨
    (((s.nextEvent = .engine ∧ s.est = .idle) ∨ s.nextEvent = .escape) ∧ t = s.popEvent) := by
  unfold step at h
  unfold State.fetch at h
  cases he : s.nextEvent with
  | access a =>
    have hadv : s.advance = s.popEvent := by simp [State.advance, State.polling, he]
    simp only [he, hadv] at h
    split at h
    · rename_i i hd
      have ho := ofHost_of_access hd
      exact .inl ⟨a, i, rfl, hd, ho, h, exec_host_effect ho h⟩
    · cases h
  | rst =>
    have hadv : s.advance = s.popEvent := by simp [State.advance, State.polling, he]
    simp only [he, hadv] at h
    cases h
    exact .inr (.inr (.inr (.inr (.inl ⟨rfl, rfl⟩))))
  | escape =>
    have hadv : s.advance = s.popEvent := by simp [State.advance, State.polling, he]
    simp only [he, hadv] at h
    cases hx : s.escapeNext with
    | none =>
      simp only [hx] at h
      cases h
      exact .inr (.inr (.inr (.inr (.inr ⟨.inr rfl, rfl⟩))))
    | some x =>
      simp only [hx, decode] at h
      have hx' : s.popEvent.escapeNext = some x := hx
      rw [exec_decodeTx hx'] at h
      cases h
      exact .inr (.inr (.inl ⟨x, rfl, rfl, rfl⟩))
  | engine =>
    simp only [he] at h
    unfold State.fetchEngine at h
    by_cases hr : s.est = .encRun
    · have hadv : s.advance = s.popEvent := by simp [State.advance, State.polling, he, hr, Est.reading]
      simp only [hr, if_true, hadv] at h
      cases h
      exact .inr (.inr (.inr (.inl ⟨rfl, hr, rfl⟩)))
    · by_cases hp : s.est.reading = true
      · have hadv : s.advance = s.popEvent.popAnswer := by simp [State.advance, State.polling, he, hp]
        simp only [hr, if_false, hp, if_true, hadv] at h
        refine .inr (.inl ⟨rfl, hp, ?_⟩)
        cases ha : s.nextAnswer with
        | byte b =>
          obtain ⟨i, hd, ho⟩ := pollCode_row hp b
          simp only [ha, hd] at h
          exact exec_poll_effect ho h
        | empty =>
          simp only [ha, rxPoll_row hp] at h
          exact exec_poll_effect rfl h
      · have hi : s.est = .idle := by
          cases hs : s.est <;> simp_all [Est.reading]
        have hadv : s.advance = s.popEvent := by simp [State.advance, State.polling, he, hi, Est.reading]
        simp only [hr, if_false, hp, hadv] at h
        cases h
        exact .inr (.inr (.inr (.inr (.inr ⟨.inl ⟨rfl, hi⟩, rfl⟩))))

end Sys2Proof.Machine
end

