-- ==== Sys2Proof/Laws/Frame.lean ====
section
/-! SUPPORT. The frame's laws: lengths of content, logical frame and wire frame, the escape code, the checksum sum, and
what a store of a wire form leaves in TX_OUT. -/

namespace Sys2Proof.Machine

@[simp] theorem be64_length (v : BitVec 64) : (be64 v).length = 8 := rfl

@[simp] theorem be16_length (v : Half) : (be16 v).length = 2 := rfl

@[simp] theorem State.content_length (s : State) : s.content.length = 14 + s.payloadSize := by
  simp [State.content]
  omega

@[simp] theorem State.logicalFrame_length (s : State) : s.logicalFrame.length = 17 + s.payloadSize := by
  simp [State.logicalFrame]
  omega

/-- The model's two spellings of RSV are one set. -/
theorem inRSV_eq_reservedByte : inRSV = reservedByte := rfl

/-- R73: a reserved byte goes out as two bytes, every other as one. -/
theorem esc_length (x : Byte) : (esc x).length = 1 + if reservedByte x then 1 else 0 := by
  rw [esc, inRSV_eq_reservedByte]
  split <;> rfl

/-- R78: no wire form of a logical byte holds the delimiter. -/
theorem not_delimiter_of_mem_esc : ∀ x b : Byte, b ∈ esc x → b ≠ delimiter := by
  intro x b h
  unfold esc at h
  split at h
  · rename_i hx
    have : x = 0x7E ∨ x = 0x7D ∨ x = 0x11 ∨ x = 0x13 := by
      simpa [inRSV, or_assoc] using hx
    rcases this with rfl | rfl | rfl | rfl <;>
      (simp only [List.mem_cons, List.not_mem_nil, or_false] at h; rcases h with rfl | rfl <;> decide)
  · rename_i hx
    simp only [List.mem_singleton] at h
    subst h
    rintro rfl
    exact hx (by decide)

theorem length_flatMap_esc (l : List Byte) :
    (l.flatMap esc).length = l.length + l.countP reservedByte := by
  induction l with
  | nil => rfl
  | cons x l ih =>
    rw [List.flatMap_cons, List.length_append, ih, esc_length, List.length_cons, List.countP_cons]
    split <;> omega

theorem wireOf_length (l : List Byte) : (wireOf l).length = 1 + l.length + l.countP reservedByte := by
  rw [wireOf, List.length_cons, length_flatMap_esc]
  omega

theorem wireOf_append (l r : List Byte) : wireOf (l ++ r) = wireOf l ++ r.flatMap esc := by
  simp [wireOf]

/-- The constant bytes of S are not reserved, so at most `14 + n` bytes are escaped (R103). -/
theorem State.countP_logicalFrame_le (s : State) :
    s.logicalFrame.countP reservedByte ≤ 14 + s.payloadSize := by
  have h1 := List.countP_le_length (p := reservedByte) (l := be16 s.lengthField)
  have h2 := List.countP_le_length (p := reservedByte) (l := be64 s.addr64)
  have h3 := List.countP_le_length (p := reservedByte) (l := be16 s.encAddr16)
  have h4 := List.countP_le_length (p := reservedByte) (l := s.bufBytes .txPayload 0 s.payloadSize)
  have h5 := List.countP_le_length (p := reservedByte) (l := [cksum s.content])
  have h6 := List.countP_le_length (p := reservedByte) (l := [s.encFrameId])
  have h7 : [typeTxRequest].countP reservedByte = 0 := rfl
  have h8 : ([0x00, 0x00] : List Byte).countP reservedByte = 0 := rfl
  have e : s.logicalFrame = be16 s.lengthField ++ [typeTxRequest] ++ [s.encFrameId] ++ be64 s.addr64 ++
      be16 s.encAddr16 ++ [0x00, 0x00] ++ s.bufBytes .txPayload 0 s.payloadSize ++ [cksum s.content] := by
    simp [State.logicalFrame, State.content]
  rw [e]
  simp only [List.countP_append, be64_length, be16_length, State.bufBytes_length,
    List.length_singleton, h7, h8] at *
  omega

/-- R103: the wire frame's length. -/
theorem State.wire_length (s : State) :
    s.wire.length = 18 + s.payloadSize + s.logicalFrame.countP reservedByte := by
  rw [State.wire, wireOf_length, State.logicalFrame_length]
  omega

theorem State.wire_length_le (s : State) : s.wire.length ≤ 32 + 2 * s.payloadSize := by
  have := s.countP_logicalFrame_le
  rw [State.wire_length]
  omega

theorem sum8_append (l r : List Byte) : sum8 (l ++ r) = sum8 l + sum8 r := by
  induction l with
  | nil => simp [sum8]
  | cons x l ih =>
    rw [List.cons_append, sum8, sum8, ih, BitVec.add_assoc]

/-- `sum8` is the sum modulo 256 on natural numbers (R8, R72). -/
theorem sum8_toNat (l : List Byte) : (sum8 l).toNat = (l.map BitVec.toNat).sum % 256 := by
  induction l with
  | nil => rfl
  | cons x l ih =>
    rw [sum8, BitVec.toNat_add, ih, List.map_cons, List.sum_cons]
    omega

/-- R105: the checksum completes the sum. -/
theorem sum8_add_cksum (c : List Byte) : sum8 c + cksum c = 0xFF := by
  apply BitVec.eq_of_toNat_eq
  have := (sum8 c).isLt
  simp only [cksum, BitVec.toNat_add, BitVec.toNat_sub]
  omega

/-- The wire bytes of the first `k` logical bytes, and where the next one begins. -/
theorem State.cursor_eq (s : State) :
    s.cursor = 1 + min s.escIdx s.logicalFrame.length +
      (s.logicalFrame.take s.escIdx).countP reservedByte := by
  rw [State.cursor, wireOf_length, List.length_take]

/-- What `putBytes` leaves at an address: byte `k` of the list at index `i + k` below the size, else the old byte. -/
theorem State.read_putBytes (s : State) (b : Buf) (i a : Nat) (l : List Byte) :
    Memory.read (s.putBytes b i l).mem a =
      if Buf.base b + i ≤ a ∧ a < Buf.base b + i + l.length ∧ a < Buf.base b + Buf.size s.params b then
        l[a - (Buf.base b + i)]?
      else Memory.read s.mem a :=
  Memory.read_store ..

/-- Inside a store that stays below the size: byte `k` of the list. -/
theorem State.read_putBytes_inside (s : State) {b : Buf} {i a k : Nat} {l : List Byte}
    (ha : a = Buf.base b + (i + k)) (hk : k < l.length) (hs : i + k < Buf.size s.params b) :
    Memory.read (s.putBytes b i l).mem a = l[k]? := by
  rw [State.read_putBytes, if_pos (by omega)]
  congr 1
  omega

/-- Outside a store: the old byte. -/
theorem State.read_putBytes_outside (s : State) {b : Buf} {i a : Nat} {l : List Byte}
    (ha : ¬(Buf.base b + i ≤ a ∧ a < Buf.base b + i + l.length)) :
    Memory.read (s.putBytes b i l).mem a = Memory.read s.mem a := by
  rw [State.read_putBytes, if_neg (by omega)]

/-- The frame reads the operands only (R109). -/
theorem State.logicalFrame_congr {s t : State} (h1 : s.encFrameId = t.encFrameId)
    (h2 : s.encAddr16 = t.encAddr16) (h3 : s.encAddr64Lo = t.encAddr64Lo)
    (h4 : s.encAddr64Hi = t.encAddr64Hi) (h5 : s.encPayloadSize = t.encPayloadSize)
    (h6 : ∀ k, k < s.payloadSize → s.bufByte .txPayload k = t.bufByte .txPayload k) :
    s.logicalFrame = t.logicalFrame := by
  have hp : s.payloadSize = t.payloadSize := congrArg BitVec.toNat h5
  have hb : s.bufBytes .txPayload 0 s.payloadSize = t.bufBytes .txPayload 0 t.payloadSize := by
    rw [← hp]
    exact State.bufBytes_congr _ _ _ fun k hk => by simpa using h6 k hk
  have hc : s.content = t.content := by
    rw [State.content, State.content, hb, h1, h2, State.addr64, State.addr64, h3, h4]
  rw [State.logicalFrame, State.logicalFrame, hc, State.lengthField, State.lengthField, hp]

end Sys2Proof.Machine
end

