-- ==== Sys2Proof/Laws/PerInstr.lean ====
section
/-! SUPPORT. The family `FixedBits`, made per instruction: the word the encoder writes for a row is of the row's format
and holds the bits that spec/opcode_table.json fixes for the row (its "fixed" fields, R80, R82, R84, R90, R91). -/

namespace Sys2Proof.Laws

/-- The formats of spec/opcode_table.json. -/
inductive Format where
  | cmd32 | rxByte | rxPoll | txByte | fType | busAddr
deriving DecidableEq, Repr

/-- The format of an input word. -/
def formatOf : Code → Format
  | .cmd32 _ => .cmd32
  | .rxByte _ => .rxByte
  | .rxPoll _ => .rxPoll
  | .txByte _ => .txByte
  | .fType _ => .fType
  | .bus _ => .busAddr

/-- The bits the table numbers, as a number: of a host access, its address. -/
def wordOf : Code → Nat
  | .cmd32 v => v.toNat
  | .rxByte key => key.toNat
  | .rxPoll c => c.toNat
  | .txByte x => x.toNat
  | .fType x => x.toNat
  | .bus t => t.addr.toNat

/-- Bits hi down to lo of a word. -/
def bitsOf (w hi lo : Nat) : Nat := w / 2 ^ lo % 2 ^ (hi + 1 - lo)

/-- The format the table gives a row. -/
def rowFormat : Instr → Format
  | .nop _ => .cmd32
  | .encode _ => .cmd32
  | .decode _ => .cmd32
  | .rsvdOp _ => .cmd32
  | .rxSeekDelim => .rxByte
  | .rxSeekDiscard _ => .rxByte
  | .rxLenDelim => .rxByte
  | .rxLenEsc => .rxByte
  | .rxLenData _ => .rxByte
  | .rxLenEscDelim => .rxByte
  | .rxLenEscData _ => .rxByte
  | .rxBodyDelim => .rxByte
  | .rxBodyEsc => .rxByte
  | .rxBodyData _ => .rxByte
  | .rxBodyEscDelim => .rxByte
  | .rxBodyEscData _ => .rxByte
  | .rxEmpty _ => .rxPoll
  | .txEsc7E => .txByte
  | .txEsc7D => .txByte
  | .txEsc11 => .txByte
  | .txEsc13 => .txByte
  | .txPlain _ => .txByte
  | .ftTxRequest => .fType
  | .ftRxIndication => .fType
  | .ftNoValidFrame => .fType
  | .regCmd _ => .busAddr
  | .regStatus _ => .busAddr
  | .regIntEn _ => .busAddr
  | .regRxPolls _ => .busAddr
  | .regSeekLimit _ => .busAddr
  | .regEncFrameId _ => .busAddr
  | .regEncAddr16 _ => .busAddr
  | .regEncAddr64Lo _ => .busAddr
  | .regEncAddr64Hi _ => .busAddr
  | .regEncPayloadSize _ => .busAddr
  | .regEncLength _ => .busAddr
  | .regDecKind _ => .busAddr
  | .regDecLen _ => .busAddr
  | .regDecFtype _ => .busAddr
  | .regDecDiscards _ => .busAddr
  | .winRxBuf _ _ => .busAddr
  | .winTxPayload _ _ => .busAddr
  | .winTxOut _ _ => .busAddr
  | .reservedSpace _ _ => .busAddr

/-- The fields (hi, lo, value) the table fixes for a row; none for a row the table gives by a range or by
exclusion (RX_EMPTY, TX_PLAIN, RESERVED_SPACE). -/
def rowFields : Instr → List (Nat × Nat × Nat)
  | .nop _ => [(1, 0, 0x0)]
  | .encode _ => [(1, 0, 0x1)]
  | .decode _ => [(1, 0, 0x2)]
  | .rsvdOp _ => [(1, 0, 0x3)]
  | .rxSeekDelim => [(10, 0, 0x27E)]
  | .rxSeekDiscard _ => [(10, 8, 0x2)]
  | .rxLenDelim => [(10, 0, 0x37E)]
  | .rxLenEsc => [(10, 0, 0x37D)]
  | .rxLenData _ => [(10, 8, 0x3)]
  | .rxLenEscDelim => [(10, 0, 0x47E)]
  | .rxLenEscData _ => [(10, 8, 0x4)]
  | .rxBodyDelim => [(10, 0, 0x57E)]
  | .rxBodyEsc => [(10, 0, 0x57D)]
  | .rxBodyData _ => [(10, 8, 0x5)]
  | .rxBodyEscDelim => [(10, 0, 0x67E)]
  | .rxBodyEscData _ => [(10, 8, 0x6)]
  | .rxEmpty _ => []
  | .txEsc7E => [(7, 0, 0x7E)]
  | .txEsc7D => [(7, 0, 0x7D)]
  | .txEsc11 => [(7, 0, 0x11)]
  | .txEsc13 => [(7, 0, 0x13)]
  | .txPlain _ => []
  | .ftTxRequest => [(7, 0, 0x10)]
  | .ftRxIndication => [(7, 0, 0x90)]
  | .ftNoValidFrame => [(7, 0, 0x0)]
  | .regCmd _ => [(19, 0, 0x0)]
  | .regStatus _ => [(19, 0, 0x4)]
  | .regIntEn _ => [(19, 0, 0x8)]
  | .regRxPolls _ => [(19, 0, 0xC)]
  | .regSeekLimit _ => [(19, 0, 0x10)]
  | .regEncFrameId _ => [(19, 0, 0x14)]
  | .regEncAddr16 _ => [(19, 0, 0x18)]
  | .regEncAddr64Lo _ => [(19, 0, 0x1C)]
  | .regEncAddr64Hi _ => [(19, 0, 0x20)]
  | .regEncPayloadSize _ => [(19, 0, 0x24)]
  | .regEncLength _ => [(19, 0, 0x28)]
  | .regDecKind _ => [(19, 0, 0x2C)]
  | .regDecLen _ => [(19, 0, 0x30)]
  | .regDecFtype _ => [(19, 0, 0x34)]
  | .regDecDiscards _ => [(19, 0, 0x38)]
  | .winRxBuf _ _ => [(19, 16, 0x1)]
  | .winTxPayload _ _ => [(19, 16, 0x2)]
  | .winTxOut _ _ => [(19, 18, 0x1)]
  | .reservedSpace _ _ => []

/-- The family: format and fixed bits of the encoded word are the table's. -/
def FixedBits.Statement (i : Instr) : Prop :=
  WellFormed i = true →
    formatOf (encode i) = rowFormat i ∧
      ∀ f ∈ rowFields i, bitsOf (wordOf (encode i)) f.1 f.2.1 = f.2.2

theorem FixedBits.nop (ign : BitVec 30) : FixedBits.Statement (.nop ign) := by
  intro _
  simp [formatOf, Sys2Proof.encode, cmdCode, rowFormat, rowFields, bitsOf, wordOf]

theorem FixedBits.encode (ign : BitVec 30) : FixedBits.Statement (.encode ign) := by
  intro _
  simp [formatOf, Sys2Proof.encode, cmdCode, rowFormat, rowFields, bitsOf, wordOf]

theorem FixedBits.decode (ign : BitVec 30) : FixedBits.Statement (.decode ign) := by
  intro _
  simp [formatOf, Sys2Proof.encode, cmdCode, rowFormat, rowFields, bitsOf, wordOf]

theorem FixedBits.rsvdOp (ign : BitVec 30) : FixedBits.Statement (.rsvdOp ign) := by
  intro _
  simp [formatOf, Sys2Proof.encode, cmdCode, rowFormat, rowFields, bitsOf, wordOf]

theorem FixedBits.rxSeekDelim : FixedBits.Statement (.rxSeekDelim) := by
  intro _
  decide

theorem FixedBits.rxSeekDiscard (b : Byte) : FixedBits.Statement (.rxSeekDiscard b) := by
  intro _
  have := b.isLt
  simp [formatOf, Sys2Proof.encode, rxCode, rowFormat, rowFields, bitsOf, wordOf, Est.code]
  omega

theorem FixedBits.rxLenDelim : FixedBits.Statement (.rxLenDelim) := by
  intro _
  decide

theorem FixedBits.rxLenEsc : FixedBits.Statement (.rxLenEsc) := by
  intro _
  decide

theorem FixedBits.rxLenData (b : Byte) : FixedBits.Statement (.rxLenData b) := by
  intro _
  have := b.isLt
  simp [formatOf, Sys2Proof.encode, rxCode, rowFormat, rowFields, bitsOf, wordOf, Est.code]
  omega

theorem FixedBits.rxLenEscDelim : FixedBits.Statement (.rxLenEscDelim) := by
  intro _
  decide

theorem FixedBits.rxLenEscData (b : Byte) : FixedBits.Statement (.rxLenEscData b) := by
  intro _
  have := b.isLt
  simp [formatOf, Sys2Proof.encode, rxCode, rowFormat, rowFields, bitsOf, wordOf, Est.code]
  omega

theorem FixedBits.rxBodyDelim : FixedBits.Statement (.rxBodyDelim) := by
  intro _
  decide

theorem FixedBits.rxBodyEsc : FixedBits.Statement (.rxBodyEsc) := by
  intro _
  decide

theorem FixedBits.rxBodyData (b : Byte) : FixedBits.Statement (.rxBodyData b) := by
  intro _
  have := b.isLt
  simp [formatOf, Sys2Proof.encode, rxCode, rowFormat, rowFields, bitsOf, wordOf, Est.code]
  omega

theorem FixedBits.rxBodyEscDelim : FixedBits.Statement (.rxBodyEscDelim) := by
  intro _
  decide

theorem FixedBits.rxBodyEscData (b : Byte) : FixedBits.Statement (.rxBodyEscData b) := by
  intro _
  have := b.isLt
  simp [formatOf, Sys2Proof.encode, rxCode, rowFormat, rowFields, bitsOf, wordOf, Est.code]
  omega

theorem FixedBits.rxEmpty (est : Est) : FixedBits.Statement (.rxEmpty est) := by
  intro _
  exact ⟨rfl, by simp [rowFields]⟩

theorem FixedBits.txEsc7E : FixedBits.Statement (.txEsc7E) := by
  intro _
  decide

theorem FixedBits.txEsc7D : FixedBits.Statement (.txEsc7D) := by
  intro _
  decide

theorem FixedBits.txEsc11 : FixedBits.Statement (.txEsc11) := by
  intro _
  decide

theorem FixedBits.txEsc13 : FixedBits.Statement (.txEsc13) := by
  intro _
  decide

theorem FixedBits.txPlain (x : Byte) : FixedBits.Statement (.txPlain x) := by
  intro _
  exact ⟨rfl, by simp [rowFields]⟩

theorem FixedBits.ftTxRequest : FixedBits.Statement (.ftTxRequest) := by
  intro _
  decide

theorem FixedBits.ftRxIndication : FixedBits.Statement (.ftRxIndication) := by
  intro _
  decide

theorem FixedBits.ftNoValidFrame : FixedBits.Statement (.ftNoValidFrame) := by
  intro _
  decide

theorem FixedBits.regCmd (acc : RegAccess) : FixedBits.Statement (.regCmd acc) := by
  intro _
  cases acc <;> exact ⟨rfl, by simp [rowFields, Sys2Proof.encode, regCode, wordOf, Transaction.addr, bitsOf]⟩

theorem FixedBits.regStatus (acc : RegAccess) : FixedBits.Statement (.regStatus acc) := by
  intro _
  cases acc <;> exact ⟨rfl, by simp [rowFields, Sys2Proof.encode, regCode, wordOf, Transaction.addr, bitsOf]⟩

theorem FixedBits.regIntEn (acc : RegAccess) : FixedBits.Statement (.regIntEn acc) := by
  intro _
  cases acc <;> exact ⟨rfl, by simp [rowFields, Sys2Proof.encode, regCode, wordOf, Transaction.addr, bitsOf]⟩

theorem FixedBits.regRxPolls (acc : RegAccess) : FixedBits.Statement (.regRxPolls acc) := by
  intro _
  cases acc <;> exact ⟨rfl, by simp [rowFields, Sys2Proof.encode, regCode, wordOf, Transaction.addr, bitsOf]⟩

theorem FixedBits.regSeekLimit (acc : RegAccess) : FixedBits.Statement (.regSeekLimit acc) := by
  intro _
  cases acc <;> exact ⟨rfl, by simp [rowFields, Sys2Proof.encode, regCode, wordOf, Transaction.addr, bitsOf]⟩

theorem FixedBits.regEncFrameId (acc : RegAccess) : FixedBits.Statement (.regEncFrameId acc) := by
  intro _
  cases acc <;> exact ⟨rfl, by simp [rowFields, Sys2Proof.encode, regCode, wordOf, Transaction.addr, bitsOf]⟩

theorem FixedBits.regEncAddr16 (acc : RegAccess) : FixedBits.Statement (.regEncAddr16 acc) := by
  intro _
  cases acc <;> exact ⟨rfl, by simp [rowFields, Sys2Proof.encode, regCode, wordOf, Transaction.addr, bitsOf]⟩

theorem FixedBits.regEncAddr64Lo (acc : RegAccess) : FixedBits.Statement (.regEncAddr64Lo acc) := by
  intro _
  cases acc <;> exact ⟨rfl, by simp [rowFields, Sys2Proof.encode, regCode, wordOf, Transaction.addr, bitsOf]⟩

theorem FixedBits.regEncAddr64Hi (acc : RegAccess) : FixedBits.Statement (.regEncAddr64Hi acc) := by
  intro _
  cases acc <;> exact ⟨rfl, by simp [rowFields, Sys2Proof.encode, regCode, wordOf, Transaction.addr, bitsOf]⟩

theorem FixedBits.regEncPayloadSize (acc : RegAccess) : FixedBits.Statement (.regEncPayloadSize acc) := by
  intro _
  cases acc <;> exact ⟨rfl, by simp [rowFields, Sys2Proof.encode, regCode, wordOf, Transaction.addr, bitsOf]⟩

theorem FixedBits.regEncLength (acc : RegAccess) : FixedBits.Statement (.regEncLength acc) := by
  intro _
  cases acc <;> exact ⟨rfl, by simp [rowFields, Sys2Proof.encode, regCode, wordOf, Transaction.addr, bitsOf]⟩

theorem FixedBits.regDecKind (acc : RegAccess) : FixedBits.Statement (.regDecKind acc) := by
  intro _
  cases acc <;> exact ⟨rfl, by simp [rowFields, Sys2Proof.encode, regCode, wordOf, Transaction.addr, bitsOf]⟩

theorem FixedBits.regDecLen (acc : RegAccess) : FixedBits.Statement (.regDecLen acc) := by
  intro _
  cases acc <;> exact ⟨rfl, by simp [rowFields, Sys2Proof.encode, regCode, wordOf, Transaction.addr, bitsOf]⟩

theorem FixedBits.regDecFtype (acc : RegAccess) : FixedBits.Statement (.regDecFtype acc) := by
  intro _
  cases acc <;> exact ⟨rfl, by simp [rowFields, Sys2Proof.encode, regCode, wordOf, Transaction.addr, bitsOf]⟩

theorem FixedBits.regDecDiscards (acc : RegAccess) : FixedBits.Statement (.regDecDiscards acc) := by
  intro _
  cases acc <;> exact ⟨rfl, by simp [rowFields, Sys2Proof.encode, regCode, wordOf, Transaction.addr, bitsOf]⟩

theorem FixedBits.winRxBuf (off : BitVec 16) (acc : WinAccess) : FixedBits.Statement (.winRxBuf off acc) := by
  intro _
  have := off.isLt
  cases acc <;> simp [formatOf, Sys2Proof.encode, winCode, rowFormat, rowFields, bitsOf, wordOf, Transaction.addr] <;> omega

theorem FixedBits.winTxPayload (off : BitVec 16) (acc : WinAccess) : FixedBits.Statement (.winTxPayload off acc) := by
  intro _
  have := off.isLt
  cases acc <;> simp [formatOf, Sys2Proof.encode, winCode, rowFormat, rowFields, bitsOf, wordOf, Transaction.addr] <;> omega

theorem FixedBits.winTxOut (off : BitVec 18) (acc : WinAccess) : FixedBits.Statement (.winTxOut off acc) := by
  intro _
  have := off.isLt
  cases acc <;> simp [formatOf, Sys2Proof.encode, winCode, rowFormat, rowFields, bitsOf, wordOf, Transaction.addr] <;> omega

theorem FixedBits.reservedSpace (a : Addr) (acc : WinAccess) : FixedBits.Statement (.reservedSpace a acc) := by
  intro _
  cases acc <;> exact ⟨rfl, by simp [rowFields]⟩

end Sys2Proof.Laws
end

