-- ==== Sys2Proof/Tests/Slice0.lean ====
section
/-! SUPPORT. Tests: the WellFormed smoke, the words of every row written out from the spec's encodings, single steps
with results from spec/95_test_vectors.md or by hand from the rules, and a witness for the hypotheses of every
statement. -/

open Sys2Proof Sys2Proof.Machine Sys2Proof.Claims

namespace Sys2Proof.Tests

/-- The next state, where there is one. -/
def out (o : Host.Outcome State Fault Refusal) : Option State :=
  match o with
  | .next s => some s
  | .fault _ => none
  | .refused _ => none

/-- The refusal, where there is one. -/
def ref (o : Host.Outcome State Fault Refusal) : Option Refusal :=
  match o with
  | .next _ => none
  | .fault _ => none
  | .refused r => some r

/-- The next state, or the reset state where there is none. -/
def after (o : Host.Outcome State Fault Refusal) : State := (out o).getD State.reset

/-- A block with a 4-byte TX_PAYLOAD, a 40-byte TX_OUT and a 20-byte RX_BUF. -/
def small : State := { State.reset with params := { txPayloadCap := 4, txOutCap := 40, rxCap := 20 } }

/-- `small` with one event to come. -/
def soon (e : Event) (s : State) : State := { s with events := [e] }

/-- `small` in a state of the engine, with one poll to come and its answer. -/
def poll (e : Est) (a : Answer) : State := { small with est := e, events := [.engine], source := [a] }

/-- The operands of vector V1. -/
def v1 : State :=
  { State.reset with
    est := .encRun, encAddr16 := 0xFFFE, encAddr64Lo := 0x41F217CC, encAddr64Hi := 0x0013A200,
    encPayloadSize := 2, mem := [(0x20000, 0x41), (0x20001, 0x42)] }

/-! ## WellFormed: one ill-formed term for each check -/

theorem test_ill_seek_discard : WellFormed (.rxSeekDiscard 0x7E) = false := by decide
theorem test_ill_len_data_delim : WellFormed (.rxLenData 0x7E) = false := by decide
theorem test_ill_len_data_esc : WellFormed (.rxLenData 0x7D) = false := by decide
theorem test_ill_len_esc_data : WellFormed (.rxLenEscData 0x7E) = false := by decide
theorem test_ill_body_data_delim : WellFormed (.rxBodyData 0x7E) = false := by decide
theorem test_ill_body_data_esc : WellFormed (.rxBodyData 0x7D) = false := by decide
theorem test_ill_body_esc_data : WellFormed (.rxBodyEscData 0x7E) = false := by decide
theorem test_ill_empty : ∀ e ∈ [Est.idle, .encRun], WellFormed (.rxEmpty e) = false := by decide
theorem test_ill_plain : ∀ x ∈ [(0x7E : Byte), 0x7D, 0x11, 0x13], WellFormed (.txPlain x) = false := by decide
theorem test_ill_rx_window : WellFormed (.winRxBuf 2 .read32) = false := by decide
theorem test_ill_payload_window : WellFormed (.winTxPayload 1 (.write32 0)) = false := by decide
theorem test_ill_out_window : WellFormed (.winTxOut 3 .read32) = false := by decide
theorem test_ill_reserved_is_register : WellFormed (.reservedSpace 0x00038 .read32) = false := by decide
theorem test_ill_reserved_is_window : WellFormed (.reservedSpace 0x10000 .read8) = false := by decide
theorem test_ill_reserved_byte : WellFormed (.reservedSpace 0x0003C .read8) = false := by decide
theorem test_ill_reserved_aligned : WellFormed (.reservedSpace 0x30002 .read32) = false := by decide

/-! ## Decoding: every row's word, written out from 30_encoding.md R82 to R91 and 10_state.md R19, 20_memory.md R51 -/

theorem test_decode_cmd32 :
    decode (.cmd32 0b00000000000000000000000000000100#32) = .row (.nop 1) ∧
    decode (.cmd32 0b00000000000000000000000000000001#32) = .row (.encode 0) ∧
    decode (.cmd32 0b10000000000000000000000000000010#32) = .row (.decode 0x20000000) ∧
    decode (.cmd32 0b11111111111111111111111111111111#32) = .row (.rsvdOp 0x3FFFFFFF) := by decide

theorem test_decode_rxbyte_seek :
    decode (.rxByte 0b01001111110#11) = .row .rxSeekDelim ∧
    decode (.rxByte 0b01001111101#11) = .row (.rxSeekDiscard 0x7D) := by decide

theorem test_decode_rxbyte_len :
    decode (.rxByte 0b01101111110#11) = .row .rxLenDelim ∧
    decode (.rxByte 0b01101111101#11) = .row .rxLenEsc ∧
    decode (.rxByte 0b01100010001#11) = .row (.rxLenData 0x11) ∧
    decode (.rxByte 0b10001111110#11) = .row .rxLenEscDelim ∧
    decode (.rxByte 0b10001111101#11) = .row (.rxLenEscData 0x7D) := by decide

theorem test_decode_rxbyte_body :
    decode (.rxByte 0b10101111110#11) = .row .rxBodyDelim ∧
    decode (.rxByte 0b10101111101#11) = .row .rxBodyEsc ∧
    decode (.rxByte 0b10100010011#11) = .row (.rxBodyData 0x13) ∧
    decode (.rxByte 0b11001111110#11) = .row .rxBodyEscDelim ∧
    decode (.rxByte 0b11001011110#11) = .row (.rxBodyEscData 0x5E) := by decide

theorem test_decode_rxpoll :
    decode (.rxPoll 0b010#3) = .row (.rxEmpty .seek) ∧ decode (.rxPoll 0b011#3) = .row (.rxEmpty .len) ∧
    decode (.rxPoll 0b100#3) = .row (.rxEmpty .lenEsc) ∧ decode (.rxPoll 0b101#3) = .row (.rxEmpty .body) ∧
    decode (.rxPoll 0b110#3) = .row (.rxEmpty .bodyEsc) ∧ decode (.rxPoll 0b000#3) = .reject .noRow := by decide

theorem test_decode_txbyte :
    decode (.txByte 0b01111110#8) = .row .txEsc7E ∧ decode (.txByte 0b01111101#8) = .row .txEsc7D ∧
    decode (.txByte 0b00010001#8) = .row .txEsc11 ∧ decode (.txByte 0b00010011#8) = .row .txEsc13 ∧
    decode (.txByte 0b00010010#8) = .row (.txPlain 0x12) := by decide

theorem test_decode_ftype :
    decode (.fType 0b00010000#8) = .row .ftTxRequest ∧ decode (.fType 0b10010000#8) = .row .ftRxIndication ∧
    decode (.fType 0b00000000#8) = .row .ftNoValidFrame ∧ decode (.fType 0b10001011#8) = .reject .noRow := by
  decide

theorem test_decode_busaddr_control :
    decode (.bus (.write 0b00000000000000000000#20 4 1)) = .row (.regCmd (.write 1)) ∧
    decode (.bus (.write 0b00000000000000000100#20 4 0xE)) = .row (.regStatus (.write 0xE)) ∧
    decode (.bus (.write 0b00000000000000001000#20 4 7)) = .row (.regIntEn (.write 7)) ∧
    decode (.bus (.write 0b00000000000000001100#20 4 5)) = .row (.regRxPolls (.write 5)) ∧
    decode (.bus (.read 0b00000000000000010000#20 4)) = .row (.regSeekLimit .read) := by decide

theorem test_decode_busaddr_encoder :
    decode (.bus (.read 0b00000000000000010100#20 4)) = .row (.regEncFrameId .read) ∧
    decode (.bus (.read 0b00000000000000011000#20 4)) = .row (.regEncAddr16 .read) ∧
    decode (.bus (.read 0b00000000000000011100#20 4)) = .row (.regEncAddr64Lo .read) ∧
    decode (.bus (.read 0b00000000000000100000#20 4)) = .row (.regEncAddr64Hi .read) ∧
    decode (.bus (.read 0b00000000000000100100#20 4)) = .row (.regEncPayloadSize .read) ∧
    decode (.bus (.read 0b00000000000000101000#20 4)) = .row (.regEncLength .read) := by decide

theorem test_decode_busaddr_decoder :
    decode (.bus (.read 0b00000000000000101100#20 4)) = .row (.regDecKind .read) ∧
    decode (.bus (.read 0b00000000000000110000#20 4)) = .row (.regDecLen .read) ∧
    decode (.bus (.read 0b00000000000000110100#20 4)) = .row (.regDecFtype .read) ∧
    decode (.bus (.read 0b00000000000000111000#20 4)) = .row (.regDecDiscards .read) := by decide

theorem test_decode_busaddr_windows :
    decode (.bus (.read 0b00010000000000000011#20 1)) = .row (.winRxBuf 3 .read8) ∧
    decode (.bus (.write 0b00100000000000000101#20 1 0x55)) = .row (.winTxPayload 5 (.write8 0x55)) ∧
    decode (.bus (.write 0b00101111111111110000#20 4 9)) = .row (.winTxPayload 0xFFF0 (.write32 9)) ∧
    decode (.bus (.read 0b01010000000000000100#20 4)) = .row (.winTxOut 0x10004 .read32) ∧
    decode (.bus (.read 0b00000000000000111100#20 4)) = .row (.reservedSpace 0x3C .read32) ∧
    decode (.bus (.read 0b00110000000000000001#20 1)) = .row (.reservedSpace 0x30001 .read8) ∧
    decode (.bus (.write 0b10000000000000000000#20 4 1)) = .row (.reservedSpace 0x80000 (.write32 1)) := by decide

theorem test_decode_not_admitted :
    decode (.bus (.read 0x00001 4)) = .reject .notAdmitted ∧ decode (.bus (.read 0x0003C 1)) = .reject .notAdmitted ∧
    decode (.bus (.read 0x10000 8)) = .reject .notAdmitted ∧
    decode (.bus (.write 0x20000 0 1)) = .reject .notAdmitted := by decide

/-- The table's own words (assumption 10). -/
theorem test_table_words :
    decodeTableWord 32 0x2 = some (.decode 0) ∧ decodeTableWord 8 0x1 = some (.encode 0) ∧
    decodeTableWord 16 0x57D = some .rxBodyEsc ∧ decodeTableWord 16 0x200 = some (.rxSeekDiscard 0) ∧
    decodeTableWord 8 0x7D = some .txEsc7D ∧ decodeTableWord 8 0x90 = some .ftRxIndication ∧
    decodeTableWord 24 0x38 = some (.regDecDiscards .read) ∧
    decodeTableWord 24 0x40000 = some (.winTxOut 0 .read32) ∧ decodeTableWord 16 0x7FF = none := by decide

/-- An offered word of each format is the row of the very next step. -/
theorem test_offered_words :
    (State.reset.withFetchWord 32 0x2).fetch = .code (.cmd32 0x2) ∧
    (State.reset.withFetchWord 16 0x57D).fetch = .code (.rxByte 0x57D) ∧
    (State.reset.withFetchWord 8 0x7E).fetch = .code (.txByte 0x7E) ∧
    (State.reset.withFetchWord 8 0x90).fetch = .code (.fType 0x90) ∧
    (State.reset.withFetchWord 24 0x20000).fetch = .code (.bus (.read 0x20000 4)) ∧
    (out (step (State.reset.withFetchWord 8 0x7E))).isSome = true ∧
    (out (step (State.reset.withFetchWord 8 0x90))).isSome = true := by decide

/-! ## Single steps: commands (V30 to V38) -/

theorem test_encode_accepted : (after (exec (.encode 0) State.reset)).statusWord = 0x00000011 := by decide
theorem test_decode_while_encoding :
    (after (exec (.decode 0) { small with est := .encRun })).statusWord = 0x00000119 := by decide
theorem test_reserved_command : (after (exec (.rsvdOp 0) State.reset)).statusWord = 0x00000208 := by decide
theorem test_encode_too_long :
    let t := after (exec (.encode 0) { State.reset with encDone := true, encPayloadSize := 65522, encLength := 18 })
    t.statusWord = 0x0000030A ∧ t.encLength = 0 ∧ t.est = .idle := by decide
theorem test_nop_while_seeking :
    (after (exec (.nop 0) { small with est := .seek })).statusWord = 0x00000021 := by decide
theorem test_busy_overwrites_cause :
    (after (exec (.regCmd (.write 1)) { small with est := .seek, cmdErr := true, errCause := .rsvdOp })).statusWord =
      0x00000129 := by decide

/-! ## Single steps: the encoder (V1, V2, V6, T1) -/

theorem test_v1_wire :
    v1.wire = [0x7E, 0x00, 0x10, 0x10, 0x00, 0x00, 0x7D, 0x33, 0xA2, 0x00, 0x41, 0xF2, 0x17, 0xCC, 0xFF, 0xFE,
      0x00, 0x00, 0x41, 0x42, 0xA4] := by decide
theorem test_v1_completion :
    let t := v1.completeEncode
    t.encLength = 21 ∧ t.statusWord = 0x00000002 ∧ t.bufByte .txOut 6 = 0x7D ∧ t.bufByte .txOut 7 = 0x33 ∧
      t.bufByte .txOut 20 = 0xA4 ∧ Memory.read t.mem 0x40015 = none := by decide
theorem test_v2_wire :
    { State.reset with encFrameId := 1 }.wire =
      [0x7E, 0x00, 0x0E, 0x10, 1, 0, 0, 0, 0, 0, 0, 0, 0, 0, 0, 0, 0, 0xEE] := by decide
theorem test_v6_length :
    { State.reset with
      encFrameId := 0x7E, encAddr16 := 0x7E7E, encAddr64Lo := 0x7E7E7E7E, encAddr64Hi := 0x7E7E7E7E,
      encPayloadSize := 3, mem := [(0x20000, 0x7E), (0x20001, 0x7E), (0x20002, 0x7E)] }.wire.length = 36 := by
  decide
theorem test_t1_escapes :
    esc 0x7E = [0x7D, 0x5E] ∧ esc 0x7D = [0x7D, 0x5D] ∧ esc 0x11 = [0x7D, 0x31] ∧ esc 0x13 = [0x7D, 0x33] ∧
      esc 0x12 = [0x12] := by decide

/-- The state whose escape stage takes the frame id next. -/
def escaping (x : Byte) : State := { small with est := .encRun, encFrameId := x, escIdx := 3 }

theorem test_tx_esc_7e :
    (after (exec .txEsc7E (escaping 0x7E))).mem = [(0x40004, 0x7D), (0x40005, 0x5E)] := by decide
theorem test_tx_esc_7d :
    (after (exec .txEsc7D (escaping 0x7D))).mem = [(0x40004, 0x7D), (0x40005, 0x5D)] := by decide
theorem test_tx_esc_11 :
    (after (exec .txEsc11 (escaping 0x11))).mem = [(0x40004, 0x7D), (0x40005, 0x31)] := by decide
theorem test_tx_esc_13 :
    (after (exec .txEsc13 (escaping 0x13))).mem = [(0x40004, 0x7D), (0x40005, 0x33)] := by decide
theorem test_tx_plain_first :
    (after (exec (.txPlain 0x00) { small with est := .encRun })).mem = [(0x40000, 0x7E), (0x40001, 0x00)] := by
  decide
theorem test_tx_wrong_byte : ref (exec (.txPlain 0x22) (escaping 0x23)) = some .notEnabled := by decide

/-! ## Single steps: the decoder (V11 to V28) -/

theorem test_seek_delim :
    (after (step (poll .seek (.byte 0x7E)))).statusWord = 0x00000031 ∧
      (after (step (poll .seek (.byte 0x7E)))).decDiscards = 0 := by decide
theorem test_seek_limit_v22 :
    let t := after (step { poll .seek (.byte 0x02) with seekLimit := 2, decDiscards := 1 })
    t.decKind = .seekLimit ∧ t.decLen = 0 ∧ t.decFtype = 0 ∧ t.decDiscards = 2 ∧ t.statusWord = 0x4 := by decide
theorem test_seek_count_wraps :
    let t := after (step { poll .seek (.byte 0x02) with decDiscards := 0xFFFFFFFF })
    t.est = .seek ∧ t.decDiscards = 0 := by decide
theorem test_len_delim_v13 :
    let t := after (step { poll .len (.byte 0x7E) with didx := 1 })
    t.decKind = .framing ∧ t.decLen = 0xFFFFFFFF ∧ t.decFtype = 0 := by decide
theorem test_len_esc : (after (step (poll .len (.byte 0x7D)))).est = .lenEsc := by decide
theorem test_len_first :
    let t := after (step { poll .len (.byte 0x12) with dwait := 7 })
    t.dlen = 0x1200 ∧ t.didx = 1 ∧ t.dwait = 0 := by decide
theorem test_len_oversize_v21 :
    let t := after (step { poll .len (.byte 0x14) with didx := 1 })
    t.decKind = .oversize ∧ t.decLen = 0xFFFFFFFD ∧ t.est = .idle := by decide
theorem test_len_esc_delim_v16b :
    (after (step (poll .lenEsc (.byte 0x7E)))).decKind = .framing := by decide
theorem test_len_esc_data_v24 :
    let t := after (step { poll .lenEsc (.byte 0x31) with didx := 1 })
    t.dlen = 0x0011 ∧ t.est = .body ∧ t.didx = 0 := by decide
theorem test_body_delim_v14 :
    (after (step { poll .body (.byte 0x7E) with dlen := 3, didx := 2 })).decKind = .framing := by decide
theorem test_body_esc : (after (step { poll .body (.byte 0x7D) with dlen := 3 })).est = .bodyEsc := by decide
theorem test_body_content_v26 :
    let t := after (step { poll .body (.byte 0x13) with dlen := 3, didx := 1, dsum := 0xF0 })
    t.dsum = 0x03 ∧ t.didx = 2 ∧ t.mem = [(0x10001, 0x13)] ∧ t.est = .body := by decide
theorem test_body_checksum_v18 :
    let t := after (step (poll .body (.byte 0xFF)))
    t.decKind = .ok ∧ t.decLen = 0 ∧ t.decFtype = 0xFF ∧ t.mem = [(0x10000, 0xFF)] := by decide
theorem test_body_esc_delim_v16 :
    (after (step { poll .bodyEsc (.byte 0x7E) with dlen := 3 })).decKind = .framing := by decide
theorem test_body_esc_content_v20 :
    let t := after (step { poll .bodyEsc (.byte 0x41) with dlen := 2 })
    t.mem = [(0x10000, 0x61)] ∧ t.dsum = 0x61 ∧ t.est = .body := by decide
theorem test_body_esc_checksum :
    let t := after (step { poll .bodyEsc (.byte 0x5E) with dlen := 1, didx := 1, dsum := 0x80 })
    t.decKind = .checksum ∧ t.decLen = 0xFFFFFFFE ∧ t.decFtype = 0 ∧ t.mem = [(0x10001, 0x7E)] := by decide
theorem test_empty_v12 :
    let t := after (step { poll .bodyEsc .empty with rxPolls := 3, dwait := 2, dlen := 3 })
    t.decKind = .noData ∧ t.decLen = 0 ∧ t.est = .idle := by decide
theorem test_empty_goes_on :
    let t := after (step { poll .seek .empty with rxPolls := 3, dwait := 1 })
    t.dwait = 2 ∧ t.est = .seek := by decide
theorem test_type_tx_request :
    let t := after (step { poll .body (.byte 0x10) with dlen := 1 })
    t.mem = [(0x10000, 0x10)] ∧ t.dsum = 0x10 ∧ t.didx = 1 := by decide
theorem test_type_rx_indication_escaped :
    (after (exec .ftRxIndication { small with est := .bodyEsc, dlen := 1 })).mem = [(0x10000, 0x90)] := by decide
theorem test_type_zero_v19 :
    let t := after (step { poll .body (.byte 0x00) with dlen := 1 })
    t.mem = [(0x10000, 0x00)] ∧ t.est = .body := by decide

/-! ## Single steps: host accesses (V33 to V39) -/

theorem test_status_w1c_v34 :
    let s := { small with encDone := true, decDone := true, cmdErr := true, errCause := ErrCause.rsvdOp }
    (after (exec (.regStatus .read) s)).rdata = 0x0000020E ∧
      (after (exec (.regStatus (.write 4)) s)).statusWord = 0x0000020A ∧
      (after (exec (.regStatus (.write 0xFFFFFFF1)) s)).statusWord = 0x0000020E ∧
      (after (exec (.regStatus (.write 0xE)) s)).statusWord = 0 := by decide
theorem test_int_en_v39 :
    let s := { small with decDone := true }
    s.irq = false ∧ (after (exec (.regIntEn (.write 2)) s)).irq = true := by decide
theorem test_rx_polls_v33 :
    ([0, 0x00010000, 0x00012345, 7].map fun v => (after (exec (.regRxPolls (.write v)) small)).rxPolls) =
      [1, 1, 0x2345, 7] := by decide
theorem test_input_write_busy_v36 :
    let t := after (exec (.regRxPolls (.write 5)) { small with est := .seek })
    t.statusWord = 0x00000429 ∧ t.rxPolls = 1 := by decide
theorem test_seek_limit_write : (after (exec (.regSeekLimit (.write 0x12345)) small)).seekLimit = 0x2345 := by decide
theorem test_frame_id_write : (after (exec (.regEncFrameId (.write 0x1FE)) small)).encFrameId = 0xFE := by decide
theorem test_addr16_write : (after (exec (.regEncAddr16 (.write 0x1FFFE)) small)).encAddr16 = 0xFFFE := by decide
theorem test_addr64_writes :
    (after (exec (.regEncAddr64Hi (.write 0x0013A200)) small)).addr64 = 0x0013A20000000000 ∧
      (after (exec (.regEncAddr64Lo (.write 0x41F217CC)) small)).addr64 = 0x41F217CC := by decide
theorem test_payload_size_v32b :
    (after (exec (.regEncPayloadSize (.write 65522)) small)).encPayloadSize = 0xFFF2 := by decide
theorem test_result_reads :
    let s := { small with
      decKind := DecKind.checksum, decLen := 0xFFFFFFFE, decFtype := 0x90, decDiscards := 20, encLength := 33 }
    (after (exec (.regDecKind .read) s)).rdata = 4 ∧ (after (exec (.regDecLen .read) s)).rdata = 0xFFFFFFFE ∧
      (after (exec (.regDecFtype .read) s)).rdata = 0x90 ∧ (after (exec (.regDecDiscards .read) s)).rdata = 20 ∧
      (after (exec (.regEncLength .read) s)).rdata = 33 := by decide
theorem test_result_writes_ignored :
    (after (exec (.regDecKind (.write 5)) small)) = small ∧ (after (exec (.regEncLength (.write 5)) small)) = small := by
  decide
theorem test_payload_word_v35 :
    let t := after (exec (.winTxPayload 0 (.write32 0x44434241)) small)
    (after (exec (.winTxPayload 1 .read8) t)).rdata = 0x42 ∧
      (after (exec (.winTxPayload 0 .read32) t)).rdata = 0x44434241 := by decide
theorem test_payload_end_v35 :
    (after (exec (.winTxPayload 65520 .read32) { State.reset with mem := [(0x2FFF0, 0x99)] })).rdata =
      0x00000099 := by decide
theorem test_payload_write_busy_v36 :
    let t := after (exec (.winTxPayload 2 (.write8 0x55)) { small with est := .seek })
    t.statusWord = 0x00000429 ∧ t.mem = [] := by decide
theorem test_rx_window :
    let s := { small with mem := [(0x10000, 0x10), (0x10001, 0x8B)] }
    (after (exec (.winRxBuf 1 .read8) s)).rdata = 0x8B ∧ after (exec (.winRxBuf 0 (.write8 1)) s) = s := by decide
theorem test_out_window_r143 :
    let s := { small with mem := [(0x40000, 0x7E), (0x40001, 0x00), (0x40002, 0x10), (0x40003, 0x10)] }
    (after (exec (.winTxOut 0 .read32) s)).rdata = 0x1010007E ∧
      ref (exec (.winTxOut 2 .read32) s) = some .notAdmitted := by decide
theorem test_reserved_v35 :
    (after (exec (.reservedSpace 0x30000 .read32) { small with rdata := 9 })).rdata = 0 ∧
      after (exec (.reservedSpace 0x0003C (.write32 1)) small) = small := by decide

/-! ## Witnesses: for every statement with hypotheses, states and operands that meet them -/

theorem witness_DecodeOfEncode :
    ∀ i ∈ [Instr.nop 0x3FFFFFFF, .rxSeekDiscard 0x7D, .rxLenData 0x7C, .rxLenEscData 0x7D, .rxBodyData 0x7F,
      .rxBodyEscData 0x5E, .rxEmpty .seek, .rxEmpty .bodyEsc, .txPlain 0x12, .winRxBuf 0xFFFF .read8,
      .winTxPayload 0xFFFC (.write32 1), .winTxOut 0x3FFFF .read8, .reservedSpace 0x3C .read32,
      .reservedSpace 0xFFFFF (.write8 1)], WellFormed i = true := by decide

theorem witness_EncodeOfDecode :
    decode (.bus (.write 0x2FFFF 1 0xABCDEF55)) = .row (.winTxPayload 0xFFFF (.write8 0x55)) ∧
    decode (.rxByte 0x67F) = .row (.rxBodyEscData 0x7F) := by decide

theorem witness_StepRuns_row :
    (soon (.access (.read 0x4 4)) small).fetch = .code (.bus (.read 0x4 4)) ∧
      decode (.bus (.read 0x4 4)) = .row (.regStatus .read) := by decide
theorem witness_StepRuns_others :
    (soon .engine { small with est := .encRun }).fetch = .complete ∧ (soon .rst small).fetch = .reset ∧
      (soon .engine small).fetch = .turn ∧ (soon .escape small).fetch = .turn := by decide

theorem witness_EventsMeet_access :
    (soon (.access (.write 0 4 7)) small).events = .access (.write 0 4 7) :: [] ∧
      (soon (.access (.read 0x2FFFF 1)) small).events = .access (.read 0x2FFFF 1) :: [] ∧
      (∀ v, Transaction.read 0x2FFFF 1 ≠ .write 0 4 v) ∧
      decode (.bus (.read 0x2FFFF 1)) = .row (.winTxPayload 0xFFFF .read8) := by
  refine ⟨rfl, rfl, ?_, rfl⟩
  intro v h
  cases h
theorem witness_EventsMeet_engine :
    (poll .bodyEsc .empty).events = .engine :: [] ∧ (poll .bodyEsc .empty).source = .empty :: [] ∧
      (poll .bodyEsc .empty).est.reading = true := by decide
theorem witness_EventsMeet_escape :
    (soon .escape (escaping 0x7E)).events = .escape :: [] ∧ (soon .escape (escaping 0x7E)).escapeNext = some 0x7E ∧
      decode (.txByte 0x7E) = .row .txEsc7E := by decide

theorem witness_PolledBytes :
    let s := { poll .body (.byte 0x90) with dlen := 1 }
    s.events = .engine :: [] ∧ s.source = .byte 0x90 :: [] ∧ s.est.reading = true ∧
      decode (rxCode s.est 0x90) = .row (.rxBodyData 0x90) := by decide

theorem witness_OnlyUnadmitted :
    ref (step (soon (.access (.read 0x20000 2)) small)) = some .notAdmitted := by decide

theorem witness_InputsAreTaken : ∃ s t, step s = .next t ∧ s.nextEvent = .engine ∧ s.est.reading = true :=
  ⟨poll .seek (.byte 0x7E), _, rfl, by decide, by decide⟩

/-- A running ENCODE of an empty payload. -/
def encoding : State := { soon .engine small with est := .encRun, encFrameId := 0x7E }

/-- A decode before the checksum of an empty content. -/
def inBody : State := { poll .body (.byte 0xFF) with decDone := true }

theorem inv_encoding : State.Inv encoding := by
  constructor <;> decide

theorem inv_inBody : State.Inv inBody := by
  constructor <;> decide

/-- An IDLE block with a command error, a result and a payload byte. -/
def settled : State :=
  { small with
    cmdErr := true, errCause := .encSize, encDone := true, decDone := true, mem := [(0x20003, 0x41)],
    decKind := .framing, decLen := 0xFFFFFFFF }

theorem inv_settled : State.Inv settled := by
  constructor <;> decide

theorem witness_StepKeepsTheInvariant :
    ∃ s t u v, State.Inv s ∧ step s = .next t ∧ State.Inv u ∧ step u = .next v ∧ s.est = .body ∧ u.est = .encRun :=
  ⟨inBody, _, encoding, _, inv_inBody, rfl, inv_encoding, rfl, rfl, rfl⟩

theorem witness_RstResets : (soon .rst encoding).events = .rst :: [] := rfl

theorem witness_NopChangesNothing :
    (0xFFFFFFFC : Word).extractLsb' 0 2 = 0b00#2 ∧ encoding.est ≠ .idle ∧ (3 : Word).extractLsb' 0 2 ≠ 0b00#2 := by
  decide

theorem witness_EncodeIsAccepted :
    { small with encPayloadSize := 4 }.est = .idle ∧
      { small with encPayloadSize := 4 }.encPayloadSize.toNat ≤ { small with encPayloadSize := 4 }.params.txPayloadCap := by
  decide
theorem witness_EncodeIsRejected :
    { small with encPayloadSize := 5 }.est = .idle ∧
      { small with encPayloadSize := 5 }.params.txPayloadCap < { small with encPayloadSize := 5 }.encPayloadSize.toNat := by
  decide
theorem witness_EncodeIsDropped : encoding.est ≠ .idle := by decide

theorem witness_DecodeIsAcceptedOrDropped : small.est = .idle ∧ inBody.est ≠ .idle := by decide

theorem witness_ReservedCommandIsRecorded : (0xFFFFFFFF : Word).extractLsb' 0 2 = 0b11#2 := by decide

theorem witness_CmdWriteIsItsCommand :
    (4 : Word).extractLsb' 0 2 = 0b00#2 ∧ (7 : Word).extractLsb' 0 2 = 0b11#2 ∧
      (5 : Word).extractLsb' 0 2 = 0b01#2 ∧ (6 : Word).extractLsb' 0 2 = 0b10#2 ∧ encoding.est ≠ .idle ∧
      small.est = .idle ∧ small.encPayloadSize.toNat ≤ small.params.txPayloadCap ∧
      small.params.txPayloadCap < (0xFFFF : Half).toNat := by decide

theorem witness_Seeking : (poll .seek .empty).est = .seek := rfl
theorem witness_LengthBytes :
    (poll .len .empty).est = .len ∧ (poll .len .empty).didx = 0 ∧ { poll .len .empty with didx := 1 }.didx ≠ 0 := by
  decide
theorem witness_EscapedLengthBytes :
    (poll .lenEsc .empty).est = .lenEsc ∧ (poll .lenEsc .empty).didx = 0 ∧
      { poll .lenEsc .empty with didx := 1 }.didx ≠ 0 := by decide

/-- The largest body that fits `small`, at an index. -/
def fullBody (e : Est) (i : Half) : State := { poll e .empty with dlen := 19, didx := i }

theorem witness_BodyBytes :
    (fullBody .body 18).est = .body ∧ (fullBody .body 18).dlen.toNat + 1 ≤ small.params.rxCap ∧
      (fullBody .body 18).didx.toNat < (fullBody .body 18).dlen.toNat ∧
      (fullBody .body 19).didx = (fullBody .body 19).dlen := by decide
theorem witness_EscapedBodyBytes :
    (fullBody .bodyEsc 18).est = .bodyEsc ∧ (fullBody .bodyEsc 18).dlen.toNat + 1 ≤ small.params.rxCap ∧
      (fullBody .bodyEsc 18).didx.toNat < (fullBody .bodyEsc 18).dlen.toNat ∧
      (fullBody .bodyEsc 19).didx = (fullBody .bodyEsc 19).dlen := by decide

theorem witness_EmptyPolls :
    Est.lenEsc.reading = true ∧ (poll .lenEsc .empty).est = .lenEsc ∧
      Est.seek.reading = true ∧ (poll .seek .empty).est = .seek := by decide

theorem witness_NamedFrameTypes :
    (∀ s ∈ [{ small with est := Est.body, dlen := 1 }, { small with est := Est.bodyEsc, dlen := 1 }],
      s.didx = 0 ∧ 0 < s.dlen.toNat ∧ 1 ≤ s.params.rxCap) := by decide

theorem witness_EveryDecodeEnds :
    ∀ s ∈ [inBody, { poll .seek .empty with rxPolls := 1 }, poll .body (.byte 0x7E), poll .body (.byte 0x00),
        { poll .len (.byte 0x14) with didx := 1 }, { poll .seek (.byte 0) with seekLimit := 1 }],
      s.est.reading = true ∧ s.nextEvent = .engine ∧ out (step s) = some (after (step s)) ∧
        (after (step s)).est = .idle := by decide
theorem witness_EveryDecodeEnds_kinds :
    ([inBody, { poll .seek .empty with rxPolls := 1 }, poll .body (.byte 0x7E), poll .body (.byte 0x00),
        { poll .len (.byte 0x14) with didx := 1 }, { poll .seek (.byte 0) with seekLimit := 1 }].map
      fun s => DecKind.code (after (step s)).decKind) = [1, 2, 3, 4, 5, 6] := by decide

theorem witness_EngineRows :
    small.est ≠ .seek ∧ small.est ≠ .len ∧ small.est ≠ .lenEsc ∧ small.est ≠ .body ∧ small.est ≠ .bodyEsc ∧
      small.est ≠ .encRun ∧ (small.est ≠ Est.seek ∨ Est.seek.reading = false) ∧
      (encoding.est ≠ Est.encRun ∨ Est.encRun.reading = false) ∧
      ¬((small.est = .body ∨ small.est = .bodyEsc) ∧ small.didx = 0 ∧ small.dlen ≠ 0) ∧
      ¬(((poll .body .empty).est = .body ∨ (poll .body .empty).est = .bodyEsc) ∧ (poll .body .empty).didx = 0 ∧
        (poll .body .empty).dlen ≠ 0) := by decide

theorem witness_LogicalFrameLayout : (7 : Nat) < 8 ∧ (1 : Nat) < v1.encPayloadSize.toNat := by decide
theorem witness_WireFrameLength : v1.logicalFrame = [] ++ 0x00 :: v1.logicalFrame.tail := by decide
theorem witness_WireFormsHide : (0x5E : Byte) ∈ (wireOf [0x7E]).tail := by decide
theorem witness_ChecksumCompletes : (sumMod [0x10] + (0xEF : Byte).toNat) % 256 = 0xFF := by decide
theorem witness_ChecksumSees : (7 : Nat) < 8 ∧ (0 : Nat) < 8 := by decide

theorem witness_EncodeCompletes :
    ∃ s, State.Inv s ∧ s.est = .encRun ∧ s.nextEvent = .engine := ⟨encoding, inv_encoding, rfl, rfl⟩

theorem inv_encoding_other : State.Inv { encoding with mem := [(0x40003, 0x22)], intEn := 7 } := by
  constructor <;> decide

theorem witness_EncodeReads :
    ∃ s s' : State, State.Inv s ∧ State.Inv s' ∧ s.est = .encRun ∧ s'.est = .encRun ∧ s.mem ≠ s'.mem ∧
      s.encFrameId = s'.encFrameId ∧ s.encAddr16 = s'.encAddr16 ∧ s.encAddr64Lo = s'.encAddr64Lo ∧
      s.encAddr64Hi = s'.encAddr64Hi ∧ s.encPayloadSize = s'.encPayloadSize ∧ s.encPayloadSize.toNat = 0 :=
  ⟨encoding, { encoding with mem := [(0x40003, 0x22)], intEn := 7 }, inv_encoding, inv_encoding_other, rfl, rfl,
    by decide, rfl, rfl, rfl, rfl, rfl, rfl⟩

/-- `encoding` with a frame id, its escape stage at a logical byte. -/
def stage (x : Byte) (i : Nat) : State := { encoding with encFrameId := x, escIdx := i }

theorem inv_stage : ∀ x ∈ [(0x7E : Byte), 0x7D, 0x11, 0x13, 0x12], State.Inv (stage x 3) := by
  intro x hx
  simp only [List.mem_cons, List.not_mem_nil, or_false] at hx
  obtain rfl | rfl | rfl | rfl | rfl := hx <;>
    (constructor <;> decide)

theorem witness_EscapeStage :
    (stage 0x7E 3).escapeNext = some 0x7E ∧ (stage 0x7D 3).escapeNext = some 0x7D ∧
      (stage 0x11 3).escapeNext = some 0x11 ∧ (stage 0x13 3).escapeNext = some 0x13 ∧
      reservedByte 0x12 = false ∧ (stage 0x12 3).escapeNext = some 0x12 := by decide

theorem witness_EscapingAhead :
    ∃ s t x i, State.Inv s ∧ s.escapeNext = some x ∧ decode (.txByte x) = .row i ∧ exec i s = .next t :=
  ⟨stage 0x7E 3, _, 0x7E, .txEsc7E, inv_stage _ (by decide), by decide, by decide, rfl⟩

theorem inv_allEscapes : State.Inv { encoding with events := List.replicate 17 Event.escape } := by
  constructor <;> decide

theorem witness_EscapeStageBuilds :
    let s := { encoding with events := List.replicate 17 Event.escape }
    State.Inv s ∧ s.est = .encRun ∧ s.escIdx = 0 ∧ 0 < 17 ∧ 17 = s.logicalFrame.length ∧
      s.events = List.replicate 17 Event.escape ++ [] :=
  ⟨inv_allEscapes, by decide, by decide, by decide, by decide, by decide⟩

theorem witness_RegisterReads :
    small.est ≠ .encRun ∧ encoding.est = .encRun ∧
      0x3C ≤ (0x3C : Addr).toNat ∧ (0x3C : Addr).toNat % 4 = 0 ∧ (0xFC : Addr).toNat < 0x100 ∧
      (0xFC : Addr).toNat % 4 = 0 := by decide

theorem witness_InputRegisterWrites : small.est = .idle := rfl

theorem witness_InputWritesBusy :
    inBody.est ≠ .idle ∧ (3 : BitVec 16).toNat < inBody.params.txPayloadCap ∧
      (0 : BitVec 16).toNat % 4 = 0 ∧ inBody.params.txPayloadCap ≤ (4 : BitVec 16).toNat ∧
      (4 : BitVec 16).toNat % 4 = 0 := by decide

theorem witness_IgnoredWrites :
    (0xFFFC : BitVec 16).toNat % 4 = 0 ∧ (0x3FFFC : BitVec 18).toNat % 4 = 0 ∧ (0xFFFFC : Addr).toNat % 4 = 0 := by
  decide

theorem witness_ReservedSpace :
    0x100 ≤ (0x100 : Addr).toNat ∧ 0x100 ≤ (0xFFFFF : Addr).toNat ∧ (0x3C : Addr).toNat % 4 = 0 := by decide

theorem witness_UnadmittedForms :
    (1 : BitVec 16).toNat % 4 ≠ 0 ∧ (0x3FFFF : BitVec 18).toNat % 4 ≠ 0 ∧ (0x30002 : Addr).toNat % 4 ≠ 0 ∧
      (0xFF : Addr).toNat < 0x100 := by decide

theorem witness_WindowReads :
    (small.est = .idle ∨ small.est = .encRun) ∧ (encoding.est = .idle ∨ encoding.est = .encRun) ∧
      inBody.est ≠ .encRun ∧ (0xFFFC : BitVec 16).toNat % 4 = 0 ∧ (0x3FFFC : BitVec 18).toNat % 4 = 0 := by decide

theorem witness_OpenWindowReads :
    inBody.est.reading = true ∧ encoding.est = .encRun ∧ (16 : BitVec 16).toNat % 4 = 0 ∧
      inBody.params.rxCap ≤ (20 : BitVec 16).toNat ∧ (20 : BitVec 16).toNat % 4 = 0 ∧
      encoding.params.txOutCap ≤ (40 : BitVec 18).toNat ∧ (40 : BitVec 18).toNat % 4 = 0 := by decide

theorem witness_PayloadWrites :
    small.est = .idle ∧ (3 : BitVec 16).toNat < small.params.txPayloadCap ∧ (0 : BitVec 16).toNat % 4 = 0 ∧
      (3 : Nat) < 4 ∧ (0 : BitVec 16).toNat + 3 < small.params.txPayloadCap ∧
      small.params.txPayloadCap ≤ (4 : BitVec 16).toNat ∧ (4 : BitVec 16).toNat % 4 = 0 := by decide

theorem witness_ByteAndWordReads :
    ∃ (s t8 t32 u8 u32 v8 v32 : State) (a : BitVec 16) (b : BitVec 18), s.est = .idle ∧ a = 3 ∧ b = 3 ∧
      exec (.winTxPayload a .read8) s = .next t8 ∧
      exec (.winTxPayload (BitVec.ofNat 16 (a.toNat - a.toNat % 4)) .read32) s = .next t32 ∧
      exec (.winRxBuf a .read8) s = .next u8 ∧
      exec (.winRxBuf (BitVec.ofNat 16 (a.toNat - a.toNat % 4)) .read32) s = .next u32 ∧
      exec (.winTxOut b .read8) s = .next v8 ∧
      exec (.winTxOut (BitVec.ofNat 18 (b.toNat - b.toNat % 4)) .read32) s = .next v32 :=
  ⟨small, _, _, _, _, _, _, 3, 3, rfl, rfl, rfl, rfl, rfl, rfl, rfl, rfl, rfl⟩

theorem witness_ReadsChangeNothing :
    ∃ i s t, isRead i = true ∧ exec i s = .next t := ⟨.regStatus .read, settled, _, rfl, rfl⟩

theorem witness_NoAccessStops :
    ∃ s t a, s.est ≠ .idle ∧ s.nextEvent = .access a ∧ step s = .next t :=
  ⟨soon (.access (.write 0 4 2)) encoding, _, .write 0 4 2, by decide, rfl, rfl⟩

theorem witness_OperandsAreFrozen :
    ∃ s t, State.Inv s ∧ s.est ≠ .idle ∧ step s = .next t ∧ s.nextEvent ≠ .rst :=
  ⟨encoding, _, inv_encoding, by decide, rfl, by decide⟩

theorem witness_FlagsHaveOneSource :
    (encoding.encDone = false ∧ (after (step encoding)).encDone = true) ∧
    (∃ s, s.decDone = false ∧ (after (step s)).decDone = true) ∧
    (∃ s, s.cmdErr = false ∧ (after (step s)).cmdErr = true) ∧
    (settled.encDone = true ∧ (after (step (soon (.access (.write 4 4 2)) settled))).encDone = false) ∧
    (settled.cmdErr = true ∧ (after (step (soon .rst settled))).cmdErr = false) :=
  ⟨by decide, ⟨poll .body (.byte 0x7E), by decide⟩, ⟨soon (.access (.write 0 4 3)) small, by decide⟩, by decide,
    by decide⟩

theorem witness_ResultRegistersChange :
    out (step inBody) = some (after (step inBody)) ∧ inBody.nextEvent ≠ .rst ∧
      (after (step inBody)).decKind ≠ inBody.decKind := by decide

theorem inv_overwriting : State.Inv (soon (.access (.write 0x20003 1 0x42)) settled) := by
  constructor <;> decide
theorem inv_rewriting : State.Inv { encoding with mem := [(0x40000, 0x01)] } := by
  constructor <;> decide
theorem inv_storing : State.Inv { inBody with mem := [(0x10000, 0x01)] } := by
  constructor <;> decide

theorem witness_BufferBytes_payload :
    let s := soon (.access (.write 0x20003 1 0x42)) settled
    State.Inv s ∧ out (step s) = some (after (step s)) ∧ 3 < s.params.txPayloadCap ∧
      (after (step s)).bufByte .txPayload 3 ≠ s.bufByte .txPayload 3 :=
  ⟨inv_overwriting, by decide, by decide, by decide⟩
theorem witness_BufferBytes_out :
    let s := { encoding with mem := [(0x40000, 0x01)] }
    State.Inv s ∧ out (step s) = some (after (step s)) ∧ 0 < s.params.txOutCap ∧
      (after (step s)).bufByte .txOut 0 ≠ s.bufByte .txOut 0 :=
  ⟨inv_rewriting, by decide, by decide, by decide⟩
theorem witness_BufferBytes_rx :
    let s := { inBody with mem := [(0x10000, 0x01)] }
    State.Inv s ∧ out (step s) = some (after (step s)) ∧ 0 < s.params.rxCap ∧
      (after (step s)).bufByte .rxBuf 0 ≠ s.bufByte .rxBuf 0 :=
  ⟨inv_storing, by decide, by decide, by decide⟩

/-- `small` seeking, with a number of turns of the Engine and the Source's answers to come. -/
def script (e : Est) (l : List Answer) : State :=
  { small with est := e, source := l, events := List.replicate l.length .engine }

theorem witness_Silence :
    let s := { script .bodyEsc [.empty, .empty] with rxPolls := 2 }
    s.est.reading = true ∧ s.dwait = 0 ∧ s.rxPolls ≠ 0 ∧
      s.source = List.replicate s.rxPolls.toNat Answer.empty ++ [] ∧
      s.events = List.replicate s.rxPolls.toNat Event.engine ++ [] ∧ 1 < s.rxPolls.toNat := by decide

theorem witness_Noise :
    let s := { script .seek [.empty, .byte 0x7D, .byte 0x00] with rxPolls := 2 }
    s.est = .seek ∧ s.seekLimit = 0 ∧ s.dwait = 0 ∧
      (∀ p ∈ [((1 : Nat), (0x7D : Byte)), (0, 0x00)], p.1 < s.rxPolls.toNat ∧ p.2 ≠ 0x7E) ∧
      s.source = answers [(1, 0x7D), (0, 0x00)] ++ [] ∧
      s.events = List.replicate (answers [(1, 0x7D), (0, 0x00)]).length Event.engine ++ [] := by decide

theorem witness_TheLimit :
    let s := { script .seek [.byte 0x01, .byte 0x02] with seekLimit := 2 }
    s.est = .seek ∧ s.decDiscards = 0 ∧ s.seekLimit ≠ 0 ∧ [(0x01 : Byte), 0x02].length = s.seekLimit.toNat ∧
      (∀ b ∈ [(0x01 : Byte), 0x02], b ≠ 0x7E) ∧ s.source = [(0x01 : Byte), 0x02].map Answer.byte ++ [] ∧
      s.events = List.replicate [(0x01 : Byte), 0x02].length Event.engine ++ [] := by decide

theorem witness_Body :
    let l : List (Byte × Bool) := [(0x7E, true), (0x81, false)]
    let s := { script .body [.byte 0x7D, .byte 0x5E, .byte 0x81] with dlen := 1 }
    s.est = .body ∧ s.didx = 0 ∧ s.dsum = 0 ∧ s.dlen.toNat + 1 ≤ s.params.rxCap ∧
      l.length = s.dlen.toNat + 1 ∧ (∀ p ∈ l, rawLegal p) ∧
      s.source = (l.flatMap rawOf).map Answer.byte ++ [] ∧
      s.events = List.replicate (l.flatMap rawOf).length Event.engine ++ [] := by
  refine ⟨by decide, by decide, by decide, by decide, by decide, ?_, by decide, by decide⟩
  intro p hp
  simp only [List.mem_cons, List.not_mem_nil, or_false] at hp
  obtain rfl | rfl := hp <;> simp [rawLegal]

/-- An IDLE decoder to which the wire frame of `encoding` comes without a wait. -/
def roundTrip : State :=
  { small with
    source := answers ((List.replicate encoding.wire.length 0).zip encoding.wire)
    events := .access (.write 0 4 2) ::
      List.replicate (answers ((List.replicate encoding.wire.length 0).zip encoding.wire)).length Event.engine }

theorem witness_DecodingAnEncodedFrame :
    let gaps := List.replicate encoding.wire.length 0
    encoding.encPayloadSize.toNat ≤ 65521 ∧ roundTrip.est = .idle ∧
      14 + encoding.encPayloadSize.toNat + 1 ≤ roundTrip.params.rxCap ∧ gaps.length = encoding.wire.length ∧
      (∀ g ∈ gaps, g < roundTrip.rxPolls.toNat) ∧
      roundTrip.source = answers (gaps.zip encoding.wire) ++ [] ∧
      roundTrip.events = .access (.write 0 4 2) ::
        (List.replicate (answers (gaps.zip encoding.wire)).length Event.engine ++ []) := by
  decide

end Sys2Proof.Tests
end

/-! PROOFS of the family 10_state: the invariant of the block, the sources of the flags, the writers of the result
registers and of the buffers, the interrupt output, and reserved space. -/

namespace Sys2Proof.Machine

/-! ## What a store to a buffer changes -/

/-- The windows of R51 do not overlap, so a byte has one buffer and one index. -/
theorem Buf.eq_of_base_add_eq {p : Params} (hp : p.Legal) {b c : Buf} {i j : Nat}
    (hi : i < Buf.size p b) (hj : j < Buf.size p c) (h : Buf.base b + i = Buf.base c + j) : b = c := by
  obtain ⟨htx, _, hout, _, hrx⟩ := hp
  cases b <;> cases c <;> simp only [Buf.base, Buf.size, reduceCtorEq] at * <;> omega

theorem State.bufByte_putBytes_outside (s : State) {b c : Buf} {i j : Nat} {l : List Byte}
    (h : ¬(Buf.base b + j ≤ Buf.base c + i ∧ Buf.base c + i < Buf.base b + j + l.length)) :
    (s.putBytes b j l).bufByte c i = s.bufByte c i := by
  rw [State.bufByte, State.bufByte, State.read_putBytes_outside s h]

theorem State.bufByte_putBytes_same (s : State) {b : Buf} {i : Nat} (v : Byte)
    (h : i < Buf.size s.params b) : (s.putBytes b i [v]).bufByte b i = v := by
  rw [State.bufByte, State.read_putBytes_inside s (k := 0) (by omega) (by simp) (by omega)]
  rfl

/-- A byte that a store changes is a byte of the store's buffer, at an index of the store. -/
theorem State.bufByte_putBytes_changed {s : State} (hp : s.params.Legal) {b c : Buf} {i j : Nat}
    {l : List Byte} (hi : i < Buf.size s.params c)
    (h : (s.putBytes b j l).bufByte c i ≠ s.bufByte c i) : c = b ∧ j ≤ i ∧ i < j + l.length := by
  have hread : Memory.read (s.putBytes b j l).mem (Buf.base c + i) ≠ Memory.read s.mem (Buf.base c + i) :=
    fun e => h (by rw [State.bufByte, State.bufByte, e])
  rw [State.read_putBytes] at hread
  split at hread
  · rename_i hin
    have hcb : c = b :=
      Buf.eq_of_base_add_eq hp hi (show Buf.base c + i - Buf.base b < _ by omega) (by omega)
    subst hcb
    exact ⟨rfl, by omega, by omega⟩
  · exact absurd rfl hread

/-! ## The invariant, state of the engine by state of the engine -/

/-- The conjuncts of `State.Inv` that speak of no running operation. -/
structure State.StaticInv (s : State) : Prop where
  params : s.params.Legal
  memWf : Memory.wf s.mem
  memIn : ∀ c ∈ s.mem, inBuffer s.params c.1
  polls : s.rxPolls ≠ 0
  cause : s.errCause = .none ↔ s.cmdErr = false
  encLen : s.encLength = 0 ∨ 18 ≤ s.encLength.toNat ∧ s.encLength.toNat ≤ 32 + 2 * s.params.txPayloadCap
  result : resultAgrees s

theorem State.Inv.static {s : State} (h : s.Inv) : s.StaticInv := { h with }

theorem State.Inv.escIdx_eq_zero_of_idle {s : State} (h : s.Inv) (hi : s.est = .idle) : s.escIdx = 0 :=
  h.ahead.2 (by simp [hi])

theorem State.Inv.escIdx_eq_zero_of_reading {s : State} (h : s.Inv) (hr : s.est.reading = true) :
    s.escIdx = 0 :=
  h.ahead.2 fun e => by simp [e, Est.reading] at hr

theorem State.StaticInv.polls_pos {s : State} (h : s.StaticInv) : 0 < s.polls :=
  Nat.pos_of_ne_zero fun e => h.polls (BitVec.eq_of_toNat_eq e)

theorem reading_of_len {e : Est} (h : e = .len ∨ e = .lenEsc) : e.reading = true := by
  rcases h with rfl | rfl <;> rfl

theorem reading_of_body {e : Est} (h : e = .body ∨ e = .bodyEsc) : e.reading = true := by
  rcases h with rfl | rfl <;> rfl

section

variable {s : State} (h : s.StaticInv)
include h

theorem State.StaticInv.inv_of_idle (hs : s.est = .idle) (he : s.escIdx = 0) : s.Inv :=
  { h with
    fits := by simp [hs]
    lenIdx := by simp [hs]
    bodyIdx := by simp [hs]
    bodySum := by simp [hs]
    wait := by simp [hs, Est.reading]
    seek := by simp [hs]
    ahead := by simp [he] }

theorem State.StaticInv.inv_of_encRun (hs : s.est = .encRun) (hfit : s.payloadSize ≤ s.params.txPayloadCap)
    (he : s.escIdx ≤ s.logicalFrame.length) : s.Inv :=
  { h with
    fits := fun _ => hfit
    lenIdx := by simp [hs]
    bodyIdx := by simp [hs]
    bodySum := by simp [hs]
    wait := by simp [hs, Est.reading]
    seek := by simp [hs]
    ahead := ⟨he, fun hn => absurd hs hn⟩ }

theorem State.StaticInv.inv_of_seek (hs : s.est = .seek) (he : s.escIdx = 0)
    (hw : s.dwait.toNat < s.polls) (hd : s.limit ≠ 0 → s.decDiscards.toNat < s.limit) : s.Inv :=
  { h with
    fits := by simp [hs]
    lenIdx := by simp [hs]
    bodyIdx := by simp [hs]
    bodySum := by simp [hs]
    wait := fun _ => hw
    seek := fun _ => hd
    ahead := by simp [he] }

theorem State.StaticInv.inv_of_len (hs : s.est = .len ∨ s.est = .lenEsc) (he : s.escIdx = 0)
    (hw : s.dwait.toNat < s.polls) (hd : s.didx.toNat ≤ 1) : s.Inv :=
  { h with
    fits := by rcases hs with hs | hs <;> simp [hs]
    lenIdx := fun _ => hd
    bodyIdx := by rcases hs with hs | hs <;> simp [hs]
    bodySum := by rcases hs with hs | hs <;> simp [hs]
    wait := fun _ => hw
    seek := by rcases hs with hs | hs <;> simp [hs]
    ahead := by simp [he] }

theorem State.StaticInv.inv_of_body (hs : s.est = .body ∨ s.est = .bodyEsc) (he : s.escIdx = 0)
    (hw : s.dwait.toNat < s.polls) (hd : s.didx.toNat ≤ s.dlen.toNat)
    (hcap : s.dlen.toNat + 1 ≤ s.params.rxCap)
    (hsum : sum8 (s.bufBytes .rxBuf 0 s.didx.toNat) = s.dsum) : s.Inv :=
  { h with
    fits := by rcases hs with hs | hs <;> simp [hs]
    lenIdx := by rcases hs with hs | hs <;> simp [hs]
    bodyIdx := fun _ => ⟨hd, hcap⟩
    bodySum := fun _ => hsum
    wait := fun _ => hw
    seek := by rcases hs with hs | hs <;> simp [hs]
    ahead := by simp [he] }

end

/-- A store keeps the memory canonical and inside the buffers. -/
theorem State.StaticInv.putBytes {s : State} (h : s.StaticInv) (b : Buf) (i : Nat) (l : List Byte) :
    (s.putBytes b i l).StaticInv :=
  { h with
    memWf := Memory.store_wf _ _ _ _ h.memWf
    memIn := fun c hc => (Memory.mem_store hc).elim (h.memIn c) fun hin =>
      ⟨b, by cases b <;> simp, hin⟩ }

/-- R127: `finish` reports results that agree, whatever the kind. -/
theorem resultAgrees_finish (s : State) (k : DecKind) : resultAgrees (s.finish k) := by
  constructor
  · intro hk
    refine ⟨if_neg hk, ?_⟩
    cases k <;> first | rfl | exact absurd rfl hk
  · rintro (rfl : k = .ok)
    have := s.dlen.isLt
    simp only [State.finish, DecKind.length, BitVec.toNat_setWidth]
    omega

theorem State.StaticInv.finish_inv {s : State} (h : s.StaticInv) (he : s.escIdx = 0) (k : DecKind) :
    (s.finish k).Inv :=
  State.StaticInv.inv_of_idle { h with result := resultAgrees_finish s k } rfl he

/-! ## What a host access, an escape, a completion and `rst` do keeps the invariant -/

theorem State.Inv.popEvent {s : State} (h : s.Inv) : s.popEvent.Inv := { h with }

/-- An answer taken from the Source touches only the model's own record of it (R43). -/
theorem State.popAnswer_eq (s : State) : ∃ l k, s.popAnswer = { s with source := l, free := k } := by
  unfold State.popAnswer
  split
  · exact ⟨_, _, rfl⟩
  · exact ⟨_, _, rfl⟩

theorem State.Inv.popAnswer {s : State} (h : s.Inv) : s.popAnswer.Inv := by
  obtain ⟨l, k, e⟩ := s.popAnswer_eq
  rw [e]
  exact { h with }

theorem State.Inv.rst {s : State} (h : s.Inv) : s.rst.Inv :=
  State.StaticInv.inv_of_idle
    { h with
      polls := by simp
      cause := by simp
      encLen := .inl rfl
      result := ⟨fun _ => ⟨rfl, rfl⟩, nofun⟩ } rfl rfl

theorem State.Inv.setErr {s : State} (h : s.Inv) {c : ErrCause} (hc : c ≠ .none) : (s.setErr c).Inv :=
  { h with cause := by simpa using hc }

/-- R149: bit 3 clears CMD_ERR and its cause together. -/
theorem State.Inv.clearFlags {s : State} (h : s.Inv) (v : Word) : (s.clearFlags v).Inv :=
  { h with
    cause := by
      rw [State.clearFlags_errCause, State.clearFlags_cmdErr]
      cases v.getLsbD 3 <;> simp [h.cause] }

theorem HostEffect.keeps_inv {s t : State} (h : s.Inv) (ht : HostEffect s t) : t.Inv := by
  have hst := h.static
  cases ht with
  | same => exact h
  | read v n => exact { h with }
  | err c hc => exact h.setErr hc
  | encSize hi => exact { h.setErr (c := .encSize) (by decide) with encLen := .inl rfl }
  | startEncode hi fit => exact State.StaticInv.inv_of_encRun { hst with } rfl fit (Nat.zero_le _)
  | startDecode hi =>
    exact State.StaticInv.inv_of_seek { hst with } rfl (h.escIdx_eq_zero_of_idle hi) hst.polls_pos
      Nat.pos_of_ne_zero
  | clear v => exact h.clearFlags v
  | intEn w => exact { h with }
  -- with the engine IDLE no byte is escaped yet, so the frame may change with its operands
  | rxPolls hi w hw =>
    exact State.StaticInv.inv_of_idle { hst with polls := hw } hi (h.escIdx_eq_zero_of_idle hi)
  | seekLimit hi | frameId hi | addr16 hi | addr64Lo hi | addr64Hi hi | payloadSize hi =>
    exact State.StaticInv.inv_of_idle { hst with } hi (h.escIdx_eq_zero_of_idle hi)
  | payload hi i l => exact (hst.putBytes _ i l).inv_of_idle hi (h.escIdx_eq_zero_of_idle hi)

/-- R104: the completion step leaves the length of a wire frame whose payload fits. -/
theorem State.Inv.completeEncode {s : State} (h : s.Inv) (hr : s.est = .encRun) : s.completeEncode.Inv := by
  have hfit := h.fits hr
  have hcap := h.params.1
  have hlo := s.wire_length
  have hhi := s.wire_length_le
  have hlen : (BitVec.ofNat 32 s.wire.length).toNat = s.wire.length := by
    rw [BitVec.toNat_ofNat, Nat.mod_eq_of_lt (by omega)]
  have hput := h.static.putBytes .txOut 0 s.wire
  refine State.StaticInv.inv_of_idle { hput with encLen := .inr ?_ } rfl rfl
  simp only [State.completeEncode_encLength, State.completeEncode_params, hlen]
  omega

/-- What the escape stage takes is the next byte of a running ENCODE's frame. -/
theorem State.escapeNext_eq_some {s : State} {x : Byte} (h : s.escapeNext = some x) :
    s.est = .encRun ∧ s.logicalFrame[s.escIdx]? = some x := by
  unfold State.escapeNext at h
  split at h
  · exact ⟨‹_›, h⟩
  · cases h

theorem State.Inv.emit {s : State} (h : s.Inv) {x : Byte} (hx : s.escapeNext = some x) (w : List Byte) :
    (s.emit w).Inv := by
  obtain ⟨hr, hget⟩ := State.escapeNext_eq_some hx
  have hlt : s.escIdx < 17 + s.payloadSize := by
    rw [← s.logicalFrame_length]
    exact (List.getElem?_eq_some_iff.1 hget).1
  have hput := h.static.putBytes .txOut (if s.escIdx = 0 then 0 else s.cursor)
    (if s.escIdx = 0 then delimiter :: w else w)
  exact State.StaticInv.inv_of_encRun { hput with } hr (h.fits hr)
    (by rw [State.logicalFrame_length]; exact hlt)

/-! ## What a poll does keeps the invariant -/

theorem State.Inv.gotByte {s : State} (h : s.Inv) : s.gotByte.Inv :=
  { h with wait := fun _ => h.static.polls_pos }

theorem Half.toNat_add_one {a b : Half} (h : a.toNat < b.toNat) : (a + 1).toNat = a.toNat + 1 := by
  have := b.isLt
  rw [BitVec.toNat_add, show (1 : Half).toNat = 1 from rfl]
  omega

/-- R115: a decode goes on seeking only below its limit. -/
theorem State.Inv.discard {s : State} (h : s.Inv) (hs : s.est = .seek) : s.discard.Inv := by
  have hr : s.est.reading = true := by rw [hs]; rfl
  have he := h.escIdx_eq_zero_of_reading hr
  have hst : State.StaticInv { s with decDiscards := s.decDiscards + 1 } := { h with }
  unfold State.discard
  dsimp only
  split
  · exact hst.finish_inv he _
  · rename_i hlim
    exact State.StaticInv.inv_of_seek { hst with } rfl he (h.wait hr)
      fun hl => Nat.lt_of_not_le fun hle => hlim ⟨hl, hle⟩

/-- R113: a read goes on waiting only below its budget. -/
theorem State.Inv.emptyPoll {s : State} (h : s.Inv) (hr : s.est.reading = true) : s.emptyPoll.Inv := by
  unfold State.emptyPoll
  split
  · exact h.static.finish_inv (h.escIdx_eq_zero_of_reading hr) _
  · rename_i hp
    refine { h with wait := fun _ => ?_ }
    show (s.dwait + 1).toNat < s.polls
    rw [Half.toNat_add_one (h.wait hr)]
    omega

/-- R120, R121: the body begins with nothing received and room for L + 1 bytes. -/
theorem State.Inv.acceptLen {s : State} (h : s.Inv) (hr : s.est.reading = true) (v : Byte) :
    (s.acceptLen v).Inv := by
  have he := h.escIdx_eq_zero_of_reading hr
  have hst : State.StaticInv { s with dlen := s.dlen.extractLsb' 8 8 ++ v } := { h with }
  unfold State.acceptLen
  split
  · exact State.StaticInv.inv_of_len { h with } (.inl rfl) he (h.wait hr) (Nat.le_refl 1)
  · unfold State.checkCapacity
    split
    · exact hst.finish_inv he _
    · rename_i hcap
      exact State.StaticInv.inv_of_body { hst with } (.inl rfl) he (h.wait hr) (Nat.zero_le _)
        (Nat.le_of_not_lt hcap) rfl

/-- R122: a content byte within the frame extends the sum by itself. -/
theorem State.Inv.acceptContent {s : State} (h : s.Inv) (hb : s.est = .body ∨ s.est = .bodyEsc)
    (hlt : s.didx.toNat < s.dlen.toNat) (v : Byte) : (s.acceptContent v).Inv := by
  have hr := reading_of_body hb
  obtain ⟨_, hcap⟩ := h.bodyIdx hb
  have hidx := Half.toNat_add_one hlt
  have hput := h.static.putBytes .rxBuf s.didx.toNat [v]
  have hold : (s.putBytes .rxBuf s.didx.toNat [v]).bufBytes .rxBuf 0 s.didx.toNat =
      s.bufBytes .rxBuf 0 s.didx.toNat :=
    State.bufBytes_congr _ _ _ fun k hk => State.bufByte_putBytes_outside s (by omega)
  have hnew : (s.putBytes .rxBuf s.didx.toNat [v]).bufByte .rxBuf s.didx.toNat = v :=
    State.bufByte_putBytes_same s v (show s.didx.toNat < s.params.rxCap by omega)
  have hsum : sum8 ((s.putBytes .rxBuf s.didx.toNat [v]).bufBytes .rxBuf 0 (s.didx + 1).toNat) =
      s.dsum + v := by
    rw [hidx, State.bufBytes_succ, Nat.zero_add, hold, hnew, sum8_append, h.bodySum hb]
    simp [sum8]
  exact State.StaticInv.inv_of_body { hput with } (.inl rfl) (h.escIdx_eq_zero_of_reading hr) (h.wait hr)
    (hidx.trans_le hlt) hcap hsum

theorem State.Inv.acceptBody {s : State} (h : s.Inv) (hb : s.est = .body ∨ s.est = .bodyEsc) (v : Byte) :
    (s.acceptBody v).Inv := by
  unfold State.acceptBody
  split
  · exact h.acceptContent hb ‹_› v
  · exact (h.static.putBytes _ _ _).finish_inv (h.escIdx_eq_zero_of_reading (reading_of_body hb)) _

theorem PollEffect.keeps_inv {s t : State} (h : s.Inv) (ht : PollEffect s t) : t.Inv := by
  have hg := h.gotByte
  have hst := hg.static
  have hw := hst.polls_pos
  have he (hr : s.est.reading = true) : s.escIdx = 0 := h.escIdx_eq_zero_of_reading hr
  cases ht with
  | delim hs =>
    exact State.StaticInv.inv_of_len { hst with } (.inl rfl) (he (by rw [hs]; rfl)) hw (Nat.zero_le 1)
  | discard hs => exact hg.discard hs
  | framing hr => exact hst.finish_inv (he hr) _
  | lenEsc hs =>
    exact State.StaticInv.inv_of_len { hst with } (.inr rfl) (he (by rw [hs]; rfl)) hw (h.lenIdx (.inl hs))
  | bodyEsc hs =>
    obtain ⟨hidx, hcap⟩ := h.bodyIdx (.inl hs)
    exact State.StaticInv.inv_of_body { hst with } (.inr rfl) (he (by rw [hs]; rfl)) hw hidx hcap
      (h.bodySum (.inl hs))
  | acceptLen hs v => exact hg.acceptLen (reading_of_len hs) v
  | acceptBody hs v => exact hg.acceptBody hs v
  | empty hr => exact h.emptyPoll hr

/-- Settles O11: each case of a step keeps the invariant. -/
theorem stepKeepsTheInvariant : Obligations.StepKeepsTheInvariant := by
  intro s t h hstep
  have hp := h.popEvent
  rcases step_next_cases hstep with ⟨_, _, _, _, _, _, hhost⟩ | ⟨_, _, hpoll⟩ | ⟨x, _, hx, rfl⟩ |
    ⟨_, hr, rfl⟩ | ⟨_, rfl⟩ | ⟨_, rfl⟩
  · exact hhost.keeps_inv hp
  · exact hpoll.keeps_inv hp.popAnswer
  · exact hp.emit hx _
  · exact hp.completeEncode hr
  · exact hp.rst
  · exact hp

end Sys2Proof.Machine

namespace Sys2Proof

/-- The bytes a window access writes, if it writes (R50). -/
def WinAccess.written : WinAccess → Option (List Byte)
  | .read8 | .read32 => none
  | .write8 v => some [v]
  | .write32 v => some (Machine.unpack4 v)

end Sys2Proof

namespace Sys2Proof.Machine

/-! ## What a host access does, by its transaction

`HostEffect` says what some host row can do; here the transaction says which of it. -/

/-- An access that writes no buffer byte and clears no flag, and of the flags sets at most CMD_ERR. -/
structure Quiet (s t : State) : Prop where
  mem : t.mem = s.mem
  encDone : t.encDone = s.encDone
  decDone : t.decDone = s.decDone
  cmdErr : s.cmdErr = true → t.cmdErr = true

/-- What a host access can do to the state. -/
inductive AccessEffect (s : State) : Transaction → State → Prop
  | read (a : Addr) (n : Nat) (v : Word) (k : Nat) : AccessEffect s (.read a n) { s with rdata := v, free := k }
  | clear (v : Word) : AccessEffect s (.write 0x00004 4 v) (s.clearFlags v)
  | payload (h : s.est = .idle) (a : Addr) (v : Word) (l : List Byte) (ha : 0x20000 ≤ a.toNat) :
      AccessEffect s (.write a l.length v) (s.putBytes .txPayload (a.toNat - 0x20000) l)
  | quiet (a : Addr) (n : Nat) (v : Word) {t : State} (h : Quiet s t) : AccessEffect s (.write a n v) t

theorem State.readWin_eq (s : State) (b : Buf) (i : Nat) (wide : Bool) :
    ∃ v k, s.readWin b i wide = { s with rdata := v, free := k } := by
  cases wide <;> exact ⟨_, _, rfl⟩

theorem winOp_read {b : Buf} {i : Nat} {acc : WinAccess} {f : List Byte → State} {s t : State}
    (hw : acc.written = none) (h : winOp b i acc f s = .next t) :
    ∃ v k, t = { s with rdata := v, free := k } := by
  unfold winOp at h
  split at h
  · cases acc with
    | read8 => cases h; exact s.readWin_eq b i false
    | read32 => cases h; exact s.readWin_eq b i true
    | write8 v => cases hw
    | write32 v => cases hw
  · cases h

theorem winOp_write {b : Buf} {i : Nat} {acc : WinAccess} {f : List Byte → State} {s t : State} {l : List Byte}
    (hw : acc.written = some l) (h : winOp b i acc f s = .next t) : t = f l := by
  unfold winOp at h
  split at h
  · cases acc <;> cases hw <;> cases h <;> rfl
  · cases h

/-- An access to reserved space that takes it reads 0, or writes nothing (R52). -/
theorem execReservedSpace_next {a : Addr} {acc : WinAccess} {s t : State}
    (h : execReservedSpace a acc s = .next t) : t = if acc.written = none then { s with rdata := 0 } else s := by
  unfold execReservedSpace at h
  split at h
  · cases acc <;> cases h <;> rfl
  · cases h

/-! Accesses that read. -/

theorem exec_regRow_read {a : Addr} {s t : State} (h : exec (regRow a .read) s = .next t) :
    ∃ v k, t = { s with rdata := v, free := k } := by
  unfold regRow at h
  split at h
  -- ENC_LENGTH, whose answer may be a free value (R60)
  case h_11 =>
    simp only [exec, execRegEncLength] at h
    split at h
    · cases h; exact ⟨_, _, rfl⟩
    · cases h; exact ⟨_, _, rfl⟩
  -- a reserved register address
  case h_16 => exact ⟨_, _, execReservedSpace_next h⟩
  all_goals cases h; exact ⟨_, _, rfl⟩

theorem exec_winRow_read {a : Addr} {acc : WinAccess} {s t : State} (hw : acc.written = none)
    (h : exec (winRow a acc) s = .next t) : ∃ v k, t = { s with rdata := v, free := k } := by
  unfold winRow at h
  split at h
  · exact winOp_read (f := fun _ => s) hw h
  split at h
  · exact winOp_read hw h
  split at h
  · exact winOp_read (f := fun _ => s) hw h
  exact ⟨0, s.free, by simpa [hw] using execReservedSpace_next h⟩

/-! Accesses that write. -/

theorem Quiet.refl (s : State) : Quiet s s := ⟨rfl, rfl, rfl, id⟩

theorem Quiet.setErr (s : State) (c : ErrCause) : Quiet s (s.setErr c) := ⟨rfl, rfl, rfl, fun _ => rfl⟩

/-- R146: an engine-input write is quiet when the write itself is; dropped, it only records its error. -/
theorem Quiet.inputWrite {s w : State} (h : Quiet s w) : Quiet s (s.inputWrite w) := by
  unfold State.inputWrite
  split
  · exact .setErr s _
  · exact h

theorem Quiet.startEncode (s : State) : Quiet s s.startEncode := by
  unfold State.startEncode
  split
  · exact ⟨rfl, rfl, rfl, fun _ => rfl⟩
  · exact ⟨rfl, rfl, rfl, id⟩

theorem Quiet.startDecode (s : State) : Quiet s s.startDecode := ⟨rfl, rfl, rfl, id⟩

theorem Quiet.writeCmd (s : State) (v : Word) : Quiet s (s.writeCmd v) := by
  unfold State.writeCmd
  split
  · exact .refl s
  split
  · exact .setErr s _
  split
  · exact .setErr s _
  split
  · exact .startEncode s
  · exact .startDecode s

theorem Quiet.unlessBusy {s w : State} (h : Quiet s w) : Quiet s (s.unlessBusy w) := by
  unfold State.unlessBusy
  split
  · exact .setErr s _
  · exact h

theorem exec_decodeCmd_quiet {v : Word} {s t : State} (h : exec (decodeCmd v) s = .next t) : Quiet s t := by
  simp only [decodeCmd] at h
  split at h
  · cases h; exact .refl s
  · cases h; exact .unlessBusy (.startEncode s)
  · cases h; exact .unlessBusy (.startDecode s)
  · cases h; exact .setErr s _

/-- A register write clears a flag only at STATUS (R149). -/
theorem exec_regRow_write {a : Addr} {w : Word} {s t : State} (h : exec (regRow a (.write w)) s = .next t) :
    Quiet s t ∨ a = 0x00004 ∧ t = s.clearFlags w := by
  unfold regRow at h
  split at h
  -- CMD, STATUS, INT_EN
  case h_1 => cases h; exact .inl (.writeCmd s w)
  case h_2 ha => cases h; exact .inr ⟨BitVec.eq_of_toNat_eq ha, rfl⟩
  case h_3 => cases h; exact .inl ⟨rfl, rfl, rfl, id⟩
  -- the registers whose writes are ignored, and the reserved addresses (R152)
  case h_11 | h_12 | h_13 | h_14 | h_15 => cases h; exact .inl (.refl s)
  case h_16 => exact .inl (execReservedSpace_next h ▸ .refl s)
  -- the engine inputs (R146)
  all_goals cases h; exact .inl (.inputWrite ⟨rfl, rfl, rfl, id⟩)

/-- A window write writes TX_PAYLOAD with the engine IDLE, or is quiet (R146, R151, R152). -/
theorem exec_winRow_write {a : Addr} {acc : WinAccess} {l : List Byte} {s t : State} (hw : acc.written = some l)
    (h : exec (winRow a acc) s = .next t) :
    Quiet s t ∨
      s.est = .idle ∧ 0x20000 ≤ a.toNat ∧ t = s.putBytes .txPayload (a.toNat - 0x20000) l := by
  unfold winRow at h
  split at h
  · have ht : t = s := winOp_write (f := fun _ => s) hw h
    exact .inl (ht ▸ .refl s)
  split at h
  · rename_i ha
    have hoff : (a.setWidth 16).toNat = a.toNat - 0x20000 := by
      rw [BitVec.toNat_setWidth]
      omega
    have ht : t = s.writePayload (a.toNat - 0x20000) l := hoff ▸ winOp_write hw h
    unfold State.writePayload at ht
    split at ht
    · rcases inputWrite_cases s (s.putBytes .txPayload (a.toNat - 0x20000) l) with ⟨hi, e⟩ | ⟨_, e⟩
      · exact .inr ⟨hi, ha.1, ht.trans e⟩
      · exact .inl (ht.trans e ▸ .setErr s _)
    · exact .inl (ht ▸ .refl s)
  split at h
  · have ht : t = s := winOp_write (f := fun _ => s) hw h
    exact .inl (ht ▸ .refl s)
  · have ht := execReservedSpace_next h
    rw [hw] at ht
    exact .inl (ht ▸ .refl s)

/-- R47: a register access is the transaction's own. -/
theorem regAccess_read {a : Addr} {n : Nat} {acc : RegAccess} (h : regAccess (.read a n) = some acc) :
    acc = .read := by
  simp only [regAccess] at h
  split at h
  · cases h; rfl
  · cases h

theorem regAccess_write {a : Addr} {n : Nat} {d : Word} {acc : RegAccess}
    (h : regAccess (.write a n d) = some acc) : n = 4 ∧ acc = .write d := by
  simp only [regAccess] at h
  split at h
  · rename_i hn
    cases h; exact ⟨hn.1, rfl⟩
  · cases h

/-- R48: what a window access of a transaction writes is as long as the transaction. -/
theorem winAccess_written {a : Addr} {n : Nat} {d : Word} {acc : WinAccess}
    (h : winAccess (.write a n d) = some acc) : ∃ l, acc.written = some l ∧ l.length = n := by
  simp only [winAccess] at h
  split at h
  · cases h; exact ⟨_, rfl, by simp [*]⟩
  split at h
  · rename_i hn
    cases h; exact ⟨_, rfl, by simp [unpack4, hn.1]⟩
  · cases h

theorem winAccess_read {a : Addr} {n : Nat} {acc : WinAccess} (h : winAccess (.read a n) = some acc) :
    acc.written = none := by
  simp only [winAccess] at h
  split at h
  · cases h; rfl
  split at h
  · cases h; rfl
  · cases h

/-- A bus word that decodes met its register or its window (R140). -/
theorem decode_bus_cases {tr : Transaction} {i : Instr} (h : decode (.bus tr) = .row i) :
    (∃ acc, regAccess tr = some acc ∧ i = regRow tr.addr acc) ∨
      ∃ acc, winAccess tr = some acc ∧ i = winRow tr.addr acc := by
  simp only [decode, decodeBus] at h
  split at h
  · split at h
    · cases h; exact .inl ⟨_, ‹_›, rfl⟩
    · cases h
  · split at h
    · cases h; exact .inr ⟨_, ‹_›, rfl⟩
    · cases h

theorem exec_bus_read {a : Addr} {n : Nat} {i : Instr} {s t : State}
    (hd : decode (.bus (.read a n)) = .row i) (h : exec i s = .next t) : AccessEffect s (.read a n) t := by
  have hread : ∃ v k, t = { s with rdata := v, free := k } := by
    rcases decode_bus_cases hd with ⟨acc, hacc, rfl⟩ | ⟨acc, hacc, rfl⟩
    · rw [regAccess_read hacc] at h
      exact exec_regRow_read h
    · exact exec_winRow_read (winAccess_read hacc) h
  obtain ⟨v, k, rfl⟩ := hread
  exact .read a n v k

theorem exec_bus_write {a : Addr} {n : Nat} {d : Word} {i : Instr} {s t : State}
    (hd : decode (.bus (.write a n d)) = .row i) (h : exec i s = .next t) :
    AccessEffect s (.write a n d) t := by
  rcases decode_bus_cases hd with ⟨acc, hacc, rfl⟩ | ⟨acc, hacc, rfl⟩
  · obtain ⟨rfl, rfl⟩ := regAccess_write hacc
    rcases exec_regRow_write h with hq | ⟨ha, rfl⟩
    · exact .quiet a 4 d hq
    · have ha' : a = 0x00004 := ha
      rw [ha']
      exact .clear d
  · obtain ⟨l, hw, rfl⟩ := winAccess_written hacc
    rcases exec_winRow_write hw h with hq | ⟨hi, ha, rfl⟩
    · exact .quiet a _ d hq
    · exact .payload hi a d l ha

/-- What a host access does, through the row its word decodes to. -/
theorem exec_access_effect {tr : Transaction} {i : Instr} {s t : State}
    (hd : decode (accessCode tr) = .row i) (h : exec i s = .next t) : AccessEffect s tr t := by
  cases tr with
  | read a n => exact exec_bus_read hd h
  | write a n v =>
    simp only [accessCode] at hd
    split at hd
    · cases hd
      exact .quiet a n v (exec_decodeCmd_quiet h)
    · exact exec_bus_write hd h

end Sys2Proof.Machine

namespace Sys2Proof.Machine

/-! ## What a poll changes -/

/-- `t` is `s` but for the engine state, the decoder's datapath and the buffers. -/
def DecoderOnly (s t : State) : Prop :=
  t = { s with
    est := t.est, didx := t.didx, dlen := t.dlen, dsum := t.dsum, dwait := t.dwait,
    decDiscards := t.decDiscards, mem := t.mem }

theorem DecoderOnly.flags_kept {s t : State} (h : DecoderOnly s t) :
    t.encDone = s.encDone ∧ t.decDone = s.decDone ∧ t.cmdErr = s.cmdErr := by
  rw [h]
  exact ⟨rfl, rfl, rfl⟩

theorem DecoderOnly.result_kept {s t : State} (h : DecoderOnly s t) :
    t.decKind = s.decKind ∧ t.decLen = s.decLen ∧ t.decFtype = s.decFtype := by
  rw [h]
  exact ⟨rfl, rfl, rfl⟩

/-- A poll goes on with the decode or ends it by `finish` (R126). -/
theorem PollEffect.goes_on_or_finishes {s t : State} (h : PollEffect s t) :
    DecoderOnly s t ∨ ∃ u k, t = u.finish k ∧ DecoderOnly s u := by
  cases h with
  | delim | lenEsc | bodyEsc => exact .inl rfl
  | framing => exact .inr ⟨_, _, rfl, rfl⟩
  | discard =>
    unfold State.discard
    dsimp only
    split
    · exact .inr ⟨_, _, rfl, rfl⟩
    · exact .inl rfl
  | acceptLen _ v =>
    unfold State.acceptLen State.checkCapacity
    split
    · exact .inl rfl
    split
    · exact .inr ⟨_, _, rfl, rfl⟩
    · exact .inl rfl
  | acceptBody _ v =>
    unfold State.acceptBody
    split
    · exact .inl rfl
    · exact .inr ⟨_, _, rfl, rfl⟩
  | empty =>
    unfold State.emptyPoll
    split
    · exact .inr ⟨_, _, rfl, rfl⟩
    · exact .inl rfl

/-! ## Flags -/

/-- What a step can do to the flags, and by which event (R41, R168). -/
inductive FlagChange (s t : State) : Prop
  | kept (he : t.encDone = s.encDone) (hd : t.decDone = s.decDone) (hc : t.cmdErr = s.cmdErr)
  | hostError (a : Addr) (n : Nat) (v : Word) (hev : s.nextEvent = .access (.write a n v))
      (he : t.encDone = s.encDone) (hd : t.decDone = s.decDone) (hc : s.cmdErr = true → t.cmdErr = true)
  | cleared (v : Word) (hev : s.nextEvent = .access (.write 0x00004 4 v))
      (he : t.encDone = true → s.encDone = true) (hd : t.decDone = true → s.decDone = true)
      (hc : t.cmdErr = true → s.cmdErr = true)
  | encoded (hev : s.nextEvent = .engine) (hs : s.est = .encRun)
      (he : t.encDone = true) (hd : t.decDone = s.decDone) (hc : t.cmdErr = s.cmdErr)
  | decoded (hev : s.nextEvent = .engine) (hs : s.est.reading = true)
      (he : t.encDone = s.encDone) (hd : t.decDone = true) (hc : t.cmdErr = s.cmdErr)
  | reset (hev : s.nextEvent = .rst)
      (he : t.encDone = false) (hd : t.decDone = false) (hc : t.cmdErr = false)

theorem AccessEffect.flagChange {s u t : State} {tr : Transaction} (h : AccessEffect u tr t)
    (hev : s.nextEvent = .access tr) (he : u.encDone = s.encDone) (hd : u.decDone = s.decDone)
    (hc : u.cmdErr = s.cmdErr) : FlagChange s t := by
  cases h with
  | read | payload => exact .kept he hd hc
  | clear v =>
    refine .cleared v hev ?_ ?_ ?_
    all_goals simp only [State.clearFlags_encDone, State.clearFlags_decDone, State.clearFlags_cmdErr,
      Bool.and_eq_true, he, hd, hc]; exact And.left
  | quiet a n v hq =>
    exact .hostError a n v hev (hq.encDone.trans he) (hq.decDone.trans hd) fun h => hq.cmdErr (hc.trans h)

theorem step_flagChange {s t : State} (h : step s = .next t) : FlagChange s t := by
  rcases step_next_cases h with ⟨a, i, hev, hd, _, hx, _⟩ | ⟨hev, hr, hpoll⟩ | ⟨x, _, _, rfl⟩ |
    ⟨hev, hr, rfl⟩ | ⟨hev, rfl⟩ | ⟨_, rfl⟩
  · exact (exec_access_effect hd hx).flagChange hev rfl rfl rfl
  · obtain ⟨l, k, e⟩ := s.popEvent.popAnswer_eq
    rw [e] at hpoll
    rcases hpoll.goes_on_or_finishes with ht | ⟨u, k, rfl, hu⟩
    · obtain ⟨he, hd, hc⟩ := ht.flags_kept
      exact .kept he hd hc
    · obtain ⟨he, _, hc⟩ := hu.flags_kept
      exact .decoded hev hr he rfl hc
  · exact .kept rfl rfl rfl
  · exact .encoded hev hr rfl rfl rfl
  · exact .reset hev rfl rfl rfl
  · exact .kept rfl rfl rfl

/-- Settles O53: each change a step can make to the flags names its event. -/
theorem flagsHaveOneSourceEach : Obligations.FlagsHaveOneSourceEach := by
  intro s t h
  cases step_flagChange h with
  | kept | hostError | cleared | encoded | decoded | reset => grind

/-! ## Result registers -/

/-- No host access writes a result register (R152). -/
theorem HostEffect.result_kept {s t : State} (h : HostEffect s t) :
    t.decKind = s.decKind ∧ t.decLen = s.decLen ∧ t.decFtype = s.decFtype := by
  cases h <;> exact ⟨rfl, rfl, rfl⟩

/-- Settles O54: of all a step can do only `finish` and `rst` write a result register. -/
theorem resultRegistersChangeOnlyAtTheEnd : Obligations.ResultRegistersChangeOnlyAtTheEnd := by
  intro s t h hrst hchange
  have kept (hk : t.decKind = s.decKind ∧ t.decLen = s.decLen ∧ t.decFtype = s.decFtype) : False := by
    obtain ⟨h1, h2, h3⟩ := hk
    rcases hchange with h | h | h
    · exact h h1
    · exact h h2
    · exact h h3
  rcases step_next_cases h with ⟨a, i, _, _, _, _, hhost⟩ | ⟨hev, hr, hpoll⟩ | ⟨x, _, _, rfl⟩ |
    ⟨_, _, rfl⟩ | ⟨hev, _⟩ | ⟨_, rfl⟩
  · exact (kept hhost.result_kept).elim
  · obtain ⟨l, k, e⟩ := s.popEvent.popAnswer_eq
    rw [e] at hpoll
    rcases hpoll.goes_on_or_finishes with ht | ⟨u, k, rfl, _⟩
    · exact (kept ht.result_kept).elim
    · exact ⟨hr, hev, rfl, rfl⟩
  · exact (kept ⟨rfl, rfl, rfl⟩).elim
  · exact (kept ⟨rfl, rfl, rfl⟩).elim
  · exact absurd hev hrst
  · exact (kept ⟨rfl, rfl, rfl⟩).elim

/-! ## Buffer bytes -/

/-- Where the decoder writes a body byte: a content byte at `didx`, the checksum at L (R122, R123). -/
def State.bodyIndex (s : State) : Nat := if s.didx < s.dlen then s.didx.toNat else s.dlen.toNat

/-- In the body both are `didx`, which does not pass L (R16). -/
theorem State.Inv.bodyIndex_eq {s : State} (h : s.Inv) (hb : s.est = .body ∨ s.est = .bodyEsc) :
    s.bodyIndex = s.didx.toNat := by
  obtain ⟨hle, _⟩ := h.bodyIdx hb
  unfold State.bodyIndex
  split
  · rfl
  · rename_i hlt
    rw [BitVec.lt_def] at hlt
    omega

/-- What a step can write to the buffers, and by which event (R57). -/
inductive BufferWrite (s t : State) : Prop
  | none (h : t.mem = s.mem)
  | payload (hs : s.est = .idle) (a : Addr) (v : Word) (l : List Byte)
      (hev : s.nextEvent = .access (.write a l.length v)) (ha : 0x20000 ≤ a.toNat)
      (h : t.mem = (s.putBytes .txPayload (a.toNat - 0x20000) l).mem)
  | txOut (hs : s.est = .encRun) (i : Nat) (l : List Byte) (hl : i + l.length ≤ s.wire.length)
      (h : t.mem = (s.putBytes .txOut i l).mem)
  | rxBuf (hs : s.est = .body ∨ s.est = .bodyEsc) (hev : s.nextEvent = .engine) (v : Byte)
      (h : t.mem = (s.putBytes .rxBuf s.bodyIndex [v]).mem)

/-- A poll writes nothing, or one byte of the body. -/
theorem PollEffect.mem_eq {s t : State} (h : PollEffect s t) :
    t.mem = s.mem ∨ (s.est = .body ∨ s.est = .bodyEsc) ∧
      ∃ v, t.mem = (s.putBytes .rxBuf s.bodyIndex [v]).mem := by
  cases h with
  | delim | lenEsc | bodyEsc | framing => exact .inl rfl
  | discard =>
    left
    unfold State.discard
    dsimp only
    split <;> rfl
  | acceptLen _ v =>
    left
    unfold State.acceptLen State.checkCapacity
    (repeat' split) <;> rfl
  | acceptBody hs v =>
    refine .inr ⟨hs, v, ?_⟩
    unfold State.acceptBody State.bodyIndex
    by_cases hlt : s.didx < s.dlen
    · rw [if_pos hlt, if_pos (show s.gotByte.didx < s.gotByte.dlen from hlt)]; rfl
    · rw [if_neg hlt, if_neg (show ¬s.gotByte.didx < s.gotByte.dlen from hlt)]; rfl
  | empty =>
    left
    unfold State.emptyPoll
    split <;> rfl

/-- The escape stage stays within the wire frame (R74). -/
theorem State.cursor_add_esc_le {s : State} {x : Byte} (h : s.logicalFrame[s.escIdx]? = some x) :
    s.cursor + (esc x).length ≤ s.wire.length := by
  obtain ⟨hlt, hx⟩ := List.getElem?_eq_some_iff.1 h
  have hsplit : s.logicalFrame =
      s.logicalFrame.take s.escIdx ++ x :: s.logicalFrame.drop (s.escIdx + 1) := by
    rw [← hx, ← List.drop_eq_getElem_cons hlt, List.take_append_drop]
  have hwire : s.wire = wireOf (s.logicalFrame.take s.escIdx) ++
      (esc x ++ (s.logicalFrame.drop (s.escIdx + 1)).flatMap esc) := by
    rw [← List.flatMap_cons, ← wireOf_append, ← hsplit, State.wire]
  rw [hwire, List.length_append, List.length_append, State.cursor]
  omega

theorem bufferWrite_emit {s : State} {x : Byte} (h : s.escapeNext = some x) :
    BufferWrite s (s.popEvent.emit (esc x)) := by
  obtain ⟨hs, hget⟩ := State.escapeNext_eq_some h
  have hle := State.cursor_add_esc_le hget
  refine .txOut hs (if s.escIdx = 0 then 0 else s.cursor)
    (if s.escIdx = 0 then delimiter :: esc x else esc x) ?_ rfl
  by_cases h0 : s.escIdx = 0
  · have hc : s.cursor = 1 := by rw [State.cursor_eq, h0]; simp
    simp only [h0, if_true, List.length_cons]
    omega
  · simpa only [h0, if_false] using hle

theorem AccessEffect.bufferWrite {s u t : State} {tr : Transaction} (h : AccessEffect u tr t)
    (hev : s.nextEvent = .access tr) (he : u.est = s.est) (hm : u.mem = s.mem) (hp : u.params = s.params) :
    BufferWrite s t := by
  cases h with
  | read => exact .none hm
  | clear => exact .none hm
  | payload hi a v l ha =>
    exact .payload (he.symm.trans hi) a v l hev ha (by simp only [State.putBytes, hm, hp])
  | quiet a n v hq => exact .none (hq.mem.trans hm)

theorem step_bufferWrite {s t : State} (h : step s = .next t) : BufferWrite s t := by
  rcases step_next_cases h with ⟨a, i, hev, hd, _, hx, _⟩ | ⟨hev, _, hpoll⟩ | ⟨x, _, hx, rfl⟩ |
    ⟨_, hs, rfl⟩ | ⟨_, rfl⟩ | ⟨_, rfl⟩
  · exact (exec_access_effect hd hx).bufferWrite hev rfl rfl rfl
  · obtain ⟨l, k, e⟩ := s.popEvent.popAnswer_eq
    rw [e] at hpoll
    rcases hpoll.mem_eq with hm | ⟨hs, v, hm⟩
    · exact .none hm
    · exact .rxBuf hs hev v hm
  · exact bufferWrite_emit hx
  · exact .txOut hs 0 s.wire (by simp) rfl
  · exact .none rfl
  · exact .none rfl

/-- A changed byte, by what the step wrote. -/
theorem BufferWrite.of_changed {s t : State} (hw : BufferWrite s t) (hp : s.params.Legal) {b : Buf}
    {i : Nat} (hi : i < Buf.size s.params b) (hne : t.bufByte b i ≠ s.bufByte b i) :
    (b = .txPayload ∧ s.est = .idle ∧ ∃ a n v, s.nextEvent = .access (.write a n v) ∧
      a.toNat ≤ 0x20000 + i ∧ 0x20000 + i < a.toNat + n) ∨
    (b = .txOut ∧ s.est = .encRun ∧ i < s.wire.length) ∨
    (b = .rxBuf ∧ (s.est = .body ∨ s.est = .bodyEsc) ∧ s.nextEvent = .engine ∧ i = s.bodyIndex) := by
  have inside {c : Buf} {j : Nat} {l : List Byte} (hm : t.mem = (s.putBytes c j l).mem) :
      b = c ∧ j ≤ i ∧ i < j + l.length :=
    State.bufByte_putBytes_changed hp hi (State.bufByte_congr hm b i ▸ hne)
  cases hw with
  | none hm => exact absurd (State.bufByte_congr hm b i) hne
  | payload hs a v l hev ha hm =>
    obtain ⟨hb, hlo, hhi⟩ := inside hm
    exact .inl ⟨hb, hs, a, l.length, v, hev, by omega, by omega⟩
  | txOut hs j l hl hm =>
    obtain ⟨hb, hlo, hhi⟩ := inside hm
    exact .inr (.inl ⟨hb, hs, by omega⟩)
  | rxBuf hs hev v hm =>
    obtain ⟨hb, hlo, hhi⟩ := inside hm
    rw [List.length_singleton] at hhi
    exact .inr (.inr ⟨hb, hs, hev, by omega⟩)

/-- Settles O55: a changed byte lies where the step wrote. -/
theorem bufferBytesChangeOnlyByTheirWriters : Obligations.BufferBytesChangeOnlyByTheirWriters := by
  intro s t i h hstep
  have hw := step_bufferWrite hstep
  refine ⟨fun hi hne => ?_, fun hi hne => ?_, fun hi hne => ?_⟩
  · simpa using hw.of_changed h.params (b := .txPayload) hi hne
  · simpa using hw.of_changed h.params (b := .txOut) hi hne
  · obtain ⟨hs, hev, hidx⟩ : (s.est = .body ∨ s.est = .bodyEsc) ∧ s.nextEvent = .engine ∧ i = s.bodyIndex := by
      simpa using hw.of_changed h.params (b := .rxBuf) hi hne
    exact ⟨hs, hev, hidx.trans (h.bodyIndex_eq hs)⟩

/-! ## The interrupt output and reserved space -/

/-- R38: the output is high exactly when some enabled flag is. -/
theorem State.irq_eq_true (s : State) : s.irq = true ↔
    (s.encDone = true ∧ s.intEn.getLsbD 0 = true) ∨ (s.decDone = true ∧ s.intEn.getLsbD 1 = true) ∨
      (s.cmdErr = true ∧ s.intEn.getLsbD 2 = true) := by
  simp only [State.irq, Bool.or_eq_true, Bool.and_eq_true, or_assoc]

/-- With no flag set no enable raises the output. -/
theorem State.irq_eq_false {s : State} (he : s.encDone = false) (hd : s.decDone = false)
    (hc : s.cmdErr = false) : s.irq = false := by
  simp [State.irq, he, hd, hc]

/-- R180: after reset STATUS reads 0. -/
theorem State.rst_statusWord (s : State) : s.rst.statusWord = 0 := by
  simp [State.statusWord, State.busy, ErrCause.code, Est.code]

/-- Settles O13, from the flags and the STATUS word after reset and the meaning of the output. -/
theorem interruptOutputIsTheEnabledFlags : Obligations.InterruptOutputIsTheEnabledFlags :=
  ⟨fun s => ⟨s.rst.irq_eq_false rfl rfl rfl, s.rst_statusWord⟩, State.irq_eq_true⟩

/-- An access that reserved space takes reads 0 and writes nothing (R35, R52). -/
theorem exec_reservedSpace {a : Addr} {acc : WinAccess} (s : State) (h : reservedTakes a.toNat acc = true) :
    exec (.reservedSpace a acc) s = .next (if acc.written = none then { s with rdata := 0 } else s) := by
  show execReservedSpace a acc s = _
  unfold execReservedSpace
  rw [if_pos h]
  cases acc <;> rfl

/-- Settles O44: reserved space takes 1-byte accesses from 0x100 on, and aligned 4-byte ones. -/
theorem reservedSpaceReadsZeroAndIgnoresWrites : Obligations.ReservedSpaceReadsZeroAndIgnoresWrites := by
  intro a v b s
  refine ⟨fun ha => ⟨?_, ?_⟩, fun ha => ⟨?_, ?_⟩⟩
  · exact exec_reservedSpace s (by simpa [reservedTakes, winAligned] using ha)
  · exact exec_reservedSpace s (by simpa [reservedTakes, winAligned] using ha)
  · exact exec_reservedSpace s (by simpa [reservedTakes, winAligned] using ha)
  · exact exec_reservedSpace s (by simpa [reservedTakes, winAligned] using ha)

end Sys2Proof.Machine

/-! PROOFS of the family 20_memory: what a step takes in, which accesses are refused, the reads of registers and
windows, and the operands of a running operation. -/

namespace Sys2Proof.Machine

/-! ## What a step takes in -/

/-- The inputs of a step: its event, and an answer where that event polls. -/
theorem State.advance_eq (s : State) :
    s.advance = if s.nextEvent = .engine ∧ s.est.reading = true then s.popEvent.popAnswer else s.popEvent := by
  simp [State.advance, State.polling]

theorem step_of_row {s : State} {c : Code} {i : Instr} (hf : s.fetch = .code c) (hd : decode c = .row i) :
    step s = exec i s.advance := by
  simp only [step, hf, hd]

theorem step_of_reject {s : State} {c : Code} {r : Reject} (hf : s.fetch = .code c)
    (hd : decode c = .reject r) : step s = .refused (Refusal.ofReject r) := by
  simp only [step, hf, hd]

theorem step_of_complete {s : State} (hf : s.fetch = .complete) : step s = .next s.advance.completeEncode := by
  simp only [step, hf]

theorem step_of_reset {s : State} (hf : s.fetch = .reset) : step s = .next s.advance.rst := by
  simp only [step, hf]

theorem step_of_turn {s : State} (hf : s.fetch = .turn) : step s = .next s.advance := by
  simp only [step, hf]

/-- Settles O5, from one equation of the step per kind of fetch. -/
theorem stepRunsTheDecodedRow : Obligations.StepRunsTheDecodedRow := by
  intro s
  refine ⟨fun c i => step_of_row, step_of_complete, step_of_reset, step_of_turn, ?_⟩
  rw [State.advance_eq]
  split
  · unfold State.popAnswer State.popEvent
    cases s.source <;> rfl
  · rfl

/-- An answer is taken from the head of the script, if there is one (R58). -/
theorem State.popAnswer_source (s : State) : s.popAnswer.source = s.source.tail := by
  unfold State.popAnswer
  split <;> simp [*]

/-- Equal in what is no state of the block (R43) and no effect of a step touches: the parameters, the schedule and the
Source's script. -/
def SameSurroundings (s t : State) : Prop :=
  t.params = s.params ∧ t.events = s.events ∧ t.source = s.source

theorem HostEffect.surroundings_kept {s t : State} (h : HostEffect s t) : SameSurroundings s t := by
  cases h <;> exact ⟨rfl, rfl, rfl⟩

theorem DecoderOnly.surroundings_kept {s t : State} (h : DecoderOnly s t) : SameSurroundings s t := by
  rw [h]
  exact ⟨rfl, rfl, rfl⟩

theorem PollEffect.surroundings_kept {s t : State} (h : PollEffect s t) : SameSurroundings s t := by
  rcases h.goes_on_or_finishes with ht | ⟨u, k, rfl, hu⟩
  · exact ht.surroundings_kept
  · exact hu.surroundings_kept

/-- A step does its effect on the state whose inputs are taken. -/
theorem step_surroundings_kept {s t : State} (h : step s = .next t) : SameSurroundings s.advance t := by
  have other (hn : ¬(s.nextEvent = .engine ∧ s.est.reading = true)) : s.advance = s.popEvent := by
    rw [State.advance_eq, if_neg hn]
  rcases step_next_cases h with ⟨a, i, hev, _, _, _, hhost⟩ | ⟨hev, hr, hpoll⟩ | ⟨x, hev, _, rfl⟩ |
    ⟨_, hr, rfl⟩ | ⟨hev, rfl⟩ | ⟨hev, rfl⟩
  · rw [other (by simp [hev])]
    exact hhost.surroundings_kept
  · rw [State.advance_eq, if_pos ⟨hev, hr⟩]
    exact hpoll.surroundings_kept
  · rw [other (by simp [hev])]
    exact ⟨rfl, rfl, rfl⟩
  · rw [other (by simp [hr, Est.reading])]
    exact ⟨rfl, rfl, rfl⟩
  · rw [other (by simp [hev])]
    exact ⟨rfl, rfl, rfl⟩
  · have hn : ¬(s.nextEvent = .engine ∧ s.est.reading = true) := by
      rcases hev with ⟨_, hi⟩ | hev
      · simp [hi, Est.reading]
      · simp [hev]
    rw [other hn]
    exact ⟨rfl, rfl, rfl⟩

/-- What taking the inputs leaves of the schedule and of the script (R58). -/
theorem State.advance_surroundings (s : State) :
    s.advance.params = s.params ∧ s.advance.events = s.events.tail ∧
      s.advance.source =
        if s.nextEvent = .engine ∧ s.est.reading = true then s.source.tail else s.source := by
  rw [State.advance_eq]
  split
  · obtain ⟨l, k, e⟩ := s.popEvent.popAnswer_eq
    exact ⟨by rw [e]; rfl, by rw [e]; rfl, s.popEvent.popAnswer_source⟩
  · exact ⟨rfl, rfl, rfl⟩

/-- Settles O9: a step takes its inputs, and its effect touches none of those to come. -/
theorem inputsAreTakenInOrder : Obligations.InputsAreTakenInOrder := by
  intro s t h
  obtain ⟨hparams, hevents, hsource⟩ := step_surroundings_kept h
  obtain ⟨hparams', hevents', hsource'⟩ := s.advance_surroundings
  exact ⟨hparams.trans hparams', hevents.trans hevents', hsource.trans hsource'⟩

/-! ## Which accesses are refused -/

/-! The window rows are `winOp` on their buffer. -/

theorem exec_winRxBuf (off : BitVec 16) (acc : WinAccess) (s : State) :
    exec (.winRxBuf off acc) s = winOp .rxBuf off.toNat acc (fun _ => s) s := rfl

theorem exec_winTxPayload (off : BitVec 16) (acc : WinAccess) (s : State) :
    exec (.winTxPayload off acc) s = winOp .txPayload off.toNat acc (s.writePayload off.toNat) s := rfl

theorem exec_winTxOut (off : BitVec 18) (acc : WinAccess) (s : State) :
    exec (.winTxOut off acc) s = winOp .txOut off.toNat acc (fun _ => s) s := rfl

/-- The meanings test the alignment that decoding admits (R48). -/
theorem winAligned_eq_alignedAt (i : Nat) (acc : WinAccess) : winAligned i acc = acc.alignedAt i := by
  cases acc <;> simp [winAligned, WinAccess.alignedAt, WinAccess.size]

theorem reservedTakes_eq_reservedAdmits (a : Nat) (acc : WinAccess) :
    reservedTakes a acc = reservedAdmits a acc := by
  unfold reservedTakes reservedAdmits
  rw [winAligned_eq_alignedAt]
  cases acc <;> simp [WinAccess.size]

theorem winOp_refused {b : Buf} {i : Nat} {acc : WinAccess} {f : List Byte → State} {s : State}
    (h : acc.alignedAt i = false) : winOp b i acc f s = .refused .notAdmitted := by
  unfold winOp
  rw [winAligned_eq_alignedAt, if_neg (by simp [h])]

theorem execReservedSpace_refused {a : Addr} {acc : WinAccess} {s : State}
    (h : reservedAdmits a.toNat acc = false) : execReservedSpace a acc s = .refused .notAdmitted := by
  unfold execReservedSpace
  rw [reservedTakes_eq_reservedAdmits, if_neg (by simp [h])]

theorem alignedAt_wide {i : Nat} {acc : WinAccess} (hacc : acc.size = 4) (hi : i % 4 ≠ 0) :
    acc.alignedAt i = false := by
  simp [WinAccess.alignedAt, hacc, hi]

theorem reservedAdmits_wide {a : Nat} {acc : WinAccess} (hacc : acc.size = 4) (ha : a % 4 ≠ 0) :
    reservedAdmits a acc = false := by
  simp [reservedAdmits, alignedAt_wide hacc ha]

theorem reservedAdmits_narrow {a : Nat} {acc : WinAccess} (hacc : acc.size = 1) (ha : a < 0x100) :
    reservedAdmits a acc = false := by
  simp [reservedAdmits, hacc, ha]

theorem size_of_mem_wide {v : Word} {acc : WinAccess} (h : acc ∈ [WinAccess.read32, .write32 v]) :
    acc.size = 4 := by
  simp only [List.mem_cons, List.not_mem_nil, or_false] at h
  rcases h with rfl | rfl <;> rfl

theorem size_of_mem_narrow {b : Byte} {acc : WinAccess} (h : acc ∈ [WinAccess.read8, .write8 b]) :
    acc.size = 1 := by
  simp only [List.mem_cons, List.not_mem_nil, or_false] at h
  rcases h with rfl | rfl <;> rfl

/-- Settles O45, by the size of the access. -/
theorem unadmittedFormsAreRefused : Obligations.UnadmittedFormsAreRefused := by
  intro v b s
  refine ⟨fun off hoff acc hacc => ?_, fun off hoff acc hacc => ?_,
    fun a => ⟨fun ha acc hacc => ?_, fun ha acc hacc => ?_⟩⟩
  · have hal := alignedAt_wide (size_of_mem_wide hacc) hoff
    exact ⟨(exec_winRxBuf off acc s).trans (winOp_refused hal),
      (exec_winTxPayload off acc s).trans (winOp_refused hal)⟩
  · exact (exec_winTxOut off acc s).trans (winOp_refused (alignedAt_wide (size_of_mem_wide hacc) hoff))
  · exact execReservedSpace_refused (reservedAdmits_wide (size_of_mem_wide hacc) ha)
  · exact execReservedSpace_refused (reservedAdmits_narrow (size_of_mem_narrow hacc) ha)

/-! Decoding admits what the contract admits (R47 to R49), and as rows with operands that fit. -/

theorem regAccess_isSome (t : Transaction) :
    (regAccess t).isSome = true ↔ t.size = 4 ∧ t.addr.toNat % 4 = 0 := by
  cases t with
  | read a n | write a n d =>
    simp only [regAccess, Transaction.size, Transaction.addr]
    split <;> simp [*]

theorem winAccess_isSome (t : Transaction) :
    (winAccess t).isSome = true ↔ t.size = 1 ∨ (t.size = 4 ∧ t.addr.toNat % 4 = 0) := by
  cases t with
  | read a n | write a n d =>
    simp only [winAccess, Transaction.size, Transaction.addr]
    (repeat' split) <;> simp [*]

theorem winAccess_alignedAt {t : Transaction} {acc : WinAccess} (h : winAccess t = some acc) :
    acc.alignedAt t.addr.toNat = true := by
  cases t with
  | read a n | write a n d =>
    simp only [winAccess] at h
    (repeat' split at h) <;> cases h
    · rfl
    · rename_i hn
      simp [WinAccess.alignedAt, WinAccess.size, Transaction.addr, hn.2]

/-- An index in a window is aligned as its address is, the windows being aligned themselves (R51). -/
theorem alignedAt_mod {n a : Nat} {acc : WinAccess} (hn : 4 ∣ n) (h : acc.alignedAt a = true) :
    acc.alignedAt (a % n) = true := by
  simpa only [WinAccess.alignedAt, Nat.mod_mod_of_dvd a hn] using h

theorem regRow_wellFormed {a : Addr} (acc : RegAccess) (ha : a.toNat < 0x100) (hal : a.toNat % 4 = 0) :
    WellFormed (regRow a acc) = true := by
  unfold regRow
  split
  case h_16 =>
    have hlo : 0x3C ≤ a.toNat := by grind
    have hhi : a.toNat < 0x10000 := by omega
    cases acc <;>
      simp [WellFormed, reservedAddr, reservedAdmits, RegAccess.toWin, WinAccess.alignedAt, WinAccess.size,
        hlo, hhi, hal]
  all_goals rfl

theorem winRow_wellFormed {a : Addr} {acc : WinAccess} (ha : 0x100 ≤ a.toNat)
    (hal : acc.alignedAt a.toNat = true) : WellFormed (winRow a acc) = true := by
  unfold winRow
  split
  · exact alignedAt_mod (n := 2 ^ 16) (by decide) hal
  split
  · exact alignedAt_mod (n := 2 ^ 16) (by decide) hal
  split
  · exact alignedAt_mod (n := 2 ^ 18) (by decide) hal
  · have hres : reservedAddr a.toNat = true := by
      simp only [reservedAddr, Bool.or_eq_true, Bool.and_eq_true, decide_eq_true_eq]
      omega
    simp [WellFormed, reservedAdmits, hres, hal, ha]

theorem decode_bus_of_admitted {t : Transaction} (h : Admitted t) :
    ∃ i, decode (.bus t) = .row i ∧ WellFormed i = true := by
  unfold Admitted at h
  simp only [decode, decodeBus]
  split at h
  · rename_i ha
    obtain ⟨acc, hacc⟩ := Option.isSome_iff_exists.1 ((regAccess_isSome t).2 h)
    exact ⟨_, by rw [if_pos ha, hacc], regRow_wellFormed acc ha h.2⟩
  · rename_i ha
    obtain ⟨acc, hacc⟩ := Option.isSome_iff_exists.1 ((winAccess_isSome t).2 h)
    exact ⟨_, by rw [if_neg ha, hacc], winRow_wellFormed (Nat.le_of_not_lt ha) (winAccess_alignedAt hacc)⟩

theorem decode_bus_of_not_admitted {t : Transaction} (h : ¬Admitted t) :
    decode (.bus t) = .reject .notAdmitted := by
  unfold Admitted at h
  simp only [decode, decodeBus]
  split at h
  · rename_i ha
    rw [← regAccess_isSome, Option.not_isSome_iff_eq_none] at h
    rw [if_pos ha, h]
  · rename_i ha
    rw [← winAccess_isSome, Option.not_isSome_iff_eq_none] at h
    rw [if_neg ha, h]

/-- A CMD write is admitted as the register access it is (R84; assumption 7). -/
theorem decode_accessCode_of_admitted {t : Transaction} (h : Admitted t) :
    ∃ i, decode (accessCode t) = .row i ∧ WellFormed i = true := by
  cases t with
  | read a n => exact decode_bus_of_admitted h
  | write a n v =>
    simp only [accessCode]
    split
    · refine ⟨decodeCmd v, rfl, ?_⟩
      unfold decodeCmd
      dsimp only
      split <;> rfl
    · exact decode_bus_of_admitted h

theorem decode_accessCode_of_not_admitted {t : Transaction} (h : ¬Admitted t) :
    decode (accessCode t) = .reject .notAdmitted := by
  cases t with
  | read a n => exact decode_bus_of_not_admitted h
  | write a n v =>
    simp only [accessCode]
    split
    · rename_i hcmd
      obtain ⟨rfl, rfl⟩ := hcmd
      exact absurd ⟨rfl, rfl⟩ h
    · exact decode_bus_of_not_admitted h

/-! ## Which rows answer -/

theorem regOp_answers (acc : RegAccess) (v : Word) (f : Word → State) (s : State) :
    ∃ t, regOp acc v f s = .next t := by
  cases acc <;> exact ⟨_, rfl⟩

theorem winOp_answers {i : Nat} {acc : WinAccess} (b : Buf) (f : List Byte → State) (s : State)
    (h : acc.alignedAt i = true) : ∃ t, winOp b i acc f s = .next t := by
  unfold winOp
  rw [winAligned_eq_alignedAt, if_pos h]
  cases acc <;> exact ⟨_, rfl⟩

/-- A host row answers a next state in every state, where its operands are well formed. -/
theorem exec_host_answers {i : Instr} (hi : Instr.ofHost i = true) (hw : WellFormed i = true) (s : State) :
    ∃ t, exec i s = .next t := by
  cases i <;> first | (cases hi; done) | skip
  case nop | encode | decode | rsvdOp => exact ⟨_, rfl⟩
  case regEncLength acc =>
    simp only [exec, execRegEncLength]
    cases acc
    · dsimp only
      split <;> exact ⟨_, rfl⟩
    · exact ⟨_, rfl⟩
  case winRxBuf off acc => exact winOp_answers .rxBuf (fun _ => s) s hw
  case winTxPayload off acc => exact winOp_answers .txPayload _ s hw
  case winTxOut off acc => exact winOp_answers .txOut (fun _ => s) s hw
  case reservedSpace a acc =>
    simp only [WellFormed, Bool.and_eq_true, ← reservedTakes_eq_reservedAdmits] at hw
    exact ⟨_, exec_reservedSpace s hw.2⟩
  all_goals exact regOp_answers _ _ _ _

/-- In a reading state the row of every raw byte is enabled (R82). -/
theorem exec_decodeRx_answers {s : State} {b : Byte} {i : Instr} (h : decodeRx s.est b = some i) :
    ∃ t, exec i s = .next t := by
  cases he : s.est <;> rw [he] at h <;> simp only [decodeRx, Option.some.injEq, reduceCtorEq] at h
  all_goals
    subst h
    (repeat' split) <;> exact ⟨_, pollIn_enabled he⟩

/-- The row of a named frame type is enabled where the next logical byte is the frame type (R90). -/
theorem exec_decodeType_answers {s : State} {x : Byte} {i : Instr} (h : decodeType x = some i)
    (ha : s.atFrameType = true) : ∃ t, exec i s = .next t := by
  have hacc (y : Byte) : ∃ t, acceptType y s = .next t := ⟨_, if_pos ha⟩
  unfold decodeType at h
  (repeat' split at h) <;> cases h <;> exact hacc _

theorem State.firstContent_atFrameType {s : State} {b x : Byte} (h : s.firstContent b = some x) :
    s.atFrameType = true := by
  unfold State.firstContent at h
  split at h
  · assumption
  · cases h

/-- The word of a poll answered by a byte decodes to a row that is enabled. -/
theorem pollCode_answers {s : State} (hr : s.est.reading = true) (b : Byte) :
    ∃ i, decode (s.pollCode b) = .row i ∧
      ∀ u : State, u.est = s.est → u.didx = s.didx → u.dlen = s.dlen → ∃ t, exec i u = .next t := by
  have raw : ∃ i, decode (rxCode s.est b) = .row i ∧
      ∀ u : State, u.est = s.est → u.didx = s.didx → u.dlen = s.dlen → ∃ t, exec i u = .next t := by
    obtain ⟨i, hi⟩ := decodeRx_isSome hr b
    refine ⟨i, by rw [decode_rxCode, hi]; rfl, fun u he _ _ => ?_⟩
    exact exec_decodeRx_answers (he ▸ hi)
  unfold State.pollCode
  split
  · rename_i x hx
    split
    · rename_i hsome
      obtain ⟨i, hi⟩ := Option.isSome_iff_exists.1 hsome
      refine ⟨i, by simp [decode, hi, Decoded.ofOption], fun u he hd hl => ?_⟩
      refine exec_decodeType_answers hi ?_
      rw [State.atFrameType, he, hd, hl]
      exact State.firstContent_atFrameType hx
    · exact raw
  · exact raw

theorem State.advance_datapath (s : State) :
    s.advance.est = s.est ∧ s.advance.didx = s.didx ∧ s.advance.dlen = s.dlen ∧
      s.advance.escapeNext = s.escapeNext := by
  obtain ⟨l, k, e⟩ := s.popEvent.popAnswer_eq
  rw [State.advance_eq, e]
  split <;> exact ⟨rfl, rfl, rfl, rfl⟩

/-- Every Engine step answers: its row is made from the state (assumption 12). -/
theorem step_engine_answers {s : State} (hev : s.nextEvent = .engine) : ∃ t, step s = .next t := by
  have hf : s.fetch = s.fetchEngine := by simp only [State.fetch, hev]
  obtain ⟨he, hd, hl, _⟩ := s.advance_datapath
  by_cases hrun : s.est = .encRun
  · exact ⟨_, step_of_complete (by rw [hf, State.fetchEngine, if_pos hrun])⟩
  by_cases hr : s.est.reading = true
  · rw [State.fetchEngine, if_neg hrun, if_pos hr] at hf
    cases ha : s.nextAnswer with
    | byte b =>
      obtain ⟨i, hi, hx⟩ := pollCode_answers hr b
      rw [step_of_row (by rw [hf, ha]) hi]
      exact hx _ he hd hl
    | empty =>
      rw [step_of_row (by rw [hf, ha]) (rxPoll_row hr)]
      refine ⟨s.advance.emptyPoll, ?_⟩
      simp only [exec, execRxEmpty, if_pos hr]
      exact pollIn_enabled he
  · exact ⟨_, step_of_turn (by rw [hf, State.fetchEngine, if_neg hrun, if_neg hr])⟩

/-- Every escape event answers: it takes the byte that is next, if there is one. -/
theorem step_escape_answers {s : State} (hev : s.nextEvent = .escape) : ∃ t, step s = .next t := by
  cases hx : s.escapeNext with
  | none => exact ⟨_, step_of_turn (by simp only [State.fetch, hev, hx])⟩
  | some x =>
    obtain ⟨_, _, _, hnext⟩ := s.advance_datapath
    rw [step_of_row (c := .txByte x) (by simp only [State.fetch, hev, hx]) rfl]
    exact ⟨_, exec_decodeTx (hnext.trans hx)⟩

theorem step_of_admitted {s : State} (h : ∀ a, s.nextEvent = .access a → Admitted a) :
    ∃ t, step s = .next t := by
  cases hev : s.nextEvent with
  | access a =>
    obtain ⟨i, hi, hw⟩ := decode_accessCode_of_admitted (h a hev)
    rw [step_of_row (by simp only [State.fetch, hev]) hi]
    exact exec_host_answers (ofHost_of_access hi) hw _
  | engine => exact step_engine_answers hev
  | escape => exact step_escape_answers hev
  | rst => exact ⟨_, step_of_reset (by simp only [State.fetch, hev])⟩

theorem step_of_not_admitted {s : State} {a : Transaction} (hev : s.nextEvent = .access a)
    (ha : ¬Admitted a) : step s = .refused .notAdmitted :=
  step_of_reject (by simp only [State.fetch, hev]) (decode_accessCode_of_not_admitted ha)

/-- Settles O8: a step whose event is no access outside the contract answers a next state. -/
theorem onlyUnadmittedAccessesStop : Obligations.OnlyUnadmittedAccessesStop := by
  refine fun s => ⟨nofun, fun r => ⟨fun hr => ?_, ?_⟩⟩
  · by_contra hn
    have hadm : ∀ a, s.nextEvent = .access a → Admitted a := fun a hev => by
      by_contra ha
      have e := hr.symm.trans (step_of_not_admitted hev ha)
      exact hn ⟨by cases e; rfl, a, hev, ha⟩
    obtain ⟨t, ht⟩ := step_of_admitted hadm
    exact absurd (hr.symm.trans ht) nofun
  · rintro ⟨rfl, a, hev, ha⟩
    exact step_of_not_admitted hev ha

/-! ## Window reads -/

theorem winOp_read8 (b : Buf) (i : Nat) (f : List Byte → State) (s : State) :
    winOp b i .read8 f s = .next (s.readWin b i false) := rfl

theorem winOp_read32 (b : Buf) {i : Nat} (f : List Byte → State) (s : State) (h : i % 4 = 0) :
    winOp b i .read32 f s = .next (s.readWin b i true) := by
  simp [winOp, winAligned, h]

/-- R52: beyond the size a read sees 0x00, also where its value is open (assumption 4). -/
theorem State.seenByte_beyond {s : State} {b : Buf} {i : Nat} (h : Buf.size s.params b ≤ i) (j : Nat) :
    s.seenByte b i j = 0 := if_neg (by omega)

/-- A read that is not open sees the same byte wherever in the access the byte stands. -/
theorem State.seenByte_closed {s : State} {b : Buf} (h : s.openBuf b = false) (i j : Nat) :
    s.seenByte b i j = s.seenByte b i 0 := by
  simp [State.seenByte, h]

/-- R60: an open read draws one free value and answers 0 beyond the size. -/
theorem State.readWin_open {s : State} {b : Buf} (h : s.openBuf b = true) (i : Nat) (wide : Bool) :
    ∃ v, s.readWin b i wide = { s with rdata := v, free := s.free + 1 } ∧
      (Buf.size s.params b ≤ i → v = 0) := by
  cases wide with
  | false =>
    refine ⟨(s.seenByte b i 0).setWidth 32, ?_, fun hi => ?_⟩
    · simp [State.readWin, State.readWin8, State.drawIf, State.answer8, h]
    · rw [State.seenByte_beyond hi]; rfl
  | true =>
    refine ⟨pack4 (s.seenByte b i 0) (s.seenByte b (i + 1) 1) (s.seenByte b (i + 2) 2)
      (s.seenByte b (i + 3) 3), ?_, fun hi => ?_⟩
    · simp [State.readWin, State.readWin32, State.drawIf, State.answer32, h]
    · rw [State.seenByte_beyond hi, State.seenByte_beyond (by omega), State.seenByte_beyond (by omega),
        State.seenByte_beyond (by omega)]
      rfl

/-- The two admitted reads of an open window complete. -/
theorem winOp_open {s : State} {b : Buf} (h : s.openBuf b = true) (i : Nat) (f : List Byte → State) :
    (∃ v, winOp b i .read8 f s = .next { s with rdata := v, free := s.free + 1 } ∧
      (Buf.size s.params b ≤ i → v = 0)) ∧
    (i % 4 = 0 → ∃ v, winOp b i .read32 f s = .next { s with rdata := v, free := s.free + 1 } ∧
      (Buf.size s.params b ≤ i → v = 0)) := by
  refine ⟨?_, fun hi => ?_⟩
  · obtain ⟨v, e, hv⟩ := State.readWin_open h i false
    exact ⟨v, by rw [winOp_read8, e], hv⟩
  · obtain ⟨v, e, hv⟩ := State.readWin_open h i true
    exact ⟨v, by rw [winOp_read32 b f s hi, e], hv⟩

/-- Settles O47: both windows are open in the states it names. -/
theorem openWindowReadsComplete : Obligations.OpenWindowReadsComplete := by
  intro s
  refine ⟨fun off hr => ?_, fun off hrun => ?_⟩
  · simp only [exec_winRxBuf]
    exact winOp_open (b := .rxBuf) hr off.toNat _
  · simp only [exec_winTxOut]
    exact winOp_open (by simp [State.openBuf, hrun]) off.toNat _

/-- R50: byte `k` of a packed word is the `k`-th. -/
theorem extractLsb'_pack4 (f : Nat → Byte) {k : Nat} (hk : k < 4) :
    (pack4 (f 0) (f 1) (f 2) (f 3)).extractLsb' (8 * k) 8 = f k := by
  ext j hj
  rw [pack4, BitVec.getElem_extractLsb']
  simp only [BitVec.getLsbD_append]
  interval_cases k <;> grind

/-- With the engine IDLE no read is open (R60). -/
theorem State.openBuf_of_idle {s : State} (h : s.est = .idle) (b : Buf) : s.openBuf b = false := by
  cases b <;> simp [State.openBuf, h, Est.reading]

theorem State.readWin_false_rdata (s : State) (b : Buf) (i : Nat) :
    (s.readWin b i false).rdata = (s.seenByte b i 0).setWidth 32 := rfl

theorem State.readWin_true_rdata {s : State} {b : Buf} (h : s.openBuf b = false) (i : Nat) :
    (s.readWin b i true).rdata =
      pack4 (s.seenByte b (i + 0) 0) (s.seenByte b (i + 1) 0) (s.seenByte b (i + 2) 0)
        (s.seenByte b (i + 3) 0) := by
  rw [← State.seenByte_closed h (i + 1) 1, ← State.seenByte_closed h (i + 2) 2,
    ← State.seenByte_closed h (i + 3) 3]
  rfl

/-- R53 for one window: the byte at an index is byte `i % 4` of the aligned word that holds it. -/
theorem winOp_byte_of_word {s t8 t32 : State} {b : Buf} {i j : Nat} {f g : List Byte → State}
    (hs : s.est = .idle) (hj : j = i - i % 4) (h8 : winOp b i .read8 f s = .next t8)
    (h32 : winOp b j .read32 g s = .next t32) :
    t8.rdata = (t32.rdata.extractLsb' (8 * (i % 4)) 8).setWidth 32 := by
  have hi : i = j + i % 4 := by omega
  rw [winOp_read8] at h8
  rw [winOp_read32 b g s (by omega)] at h32
  cases h8
  cases h32
  rw [State.readWin_false_rdata, State.readWin_true_rdata (State.openBuf_of_idle hs b),
    extractLsb'_pack4 (fun k => s.seenByte b (j + k) 0) (Nat.mod_lt i (by decide)), ← hi]

theorem toNat_align {w : Nat} (off : BitVec w) :
    (BitVec.ofNat w (off.toNat - off.toNat % 4)).toNat = off.toNat - off.toNat % 4 := by
  rw [BitVec.toNat_ofNat, Nat.mod_eq_of_lt (by have := off.isLt; omega)]

/-- Settles O49, window by window. -/
theorem byteAndWordReadsAgree : Obligations.ByteAndWordReadsAgree := by
  intro s hs
  simp only [exec_winTxPayload, exec_winRxBuf, exec_winTxOut]
  refine ⟨fun t8 t32 off => ?_, fun t8 t32 off => ?_, fun t8 t32 off => ?_⟩
  all_goals exact winOp_byte_of_word hs (toNat_align off)

/-! ## Reads have no side effect -/

theorem winOp_read_sameBlock {b : Buf} {i : Nat} {acc : WinAccess} {f : List Byte → State} {s t : State}
    (h : winOp b i acc f s = .next t) (hw : acc.written = none) : State.SameBlock s t := by
  obtain ⟨v, k, rfl⟩ := winOp_read hw h
  rfl

/-- Settles O50, row by row: a read only answers. -/
theorem readsChangeNothingOfTheBlock : Obligations.ReadsChangeNothingOfTheBlock := by
  intro i s t hi h
  cases i <;> first | cases hi | skip
  case regEncLength acc =>
    cases acc with
    | read =>
      simp only [exec, execRegEncLength] at h
      split at h <;> cases h <;> rfl
    | write => cases hi
  case winRxBuf off acc =>
    rw [exec_winRxBuf] at h
    cases acc with
    | read8 | read32 => exact winOp_read_sameBlock h rfl
    | write8 | write32 => cases hi
  case winTxPayload off acc =>
    rw [exec_winTxPayload] at h
    cases acc with
    | read8 | read32 => exact winOp_read_sameBlock h rfl
    | write8 | write32 => cases hi
  case winTxOut off acc =>
    rw [exec_winTxOut] at h
    cases acc with
    | read8 | read32 => exact winOp_read_sameBlock h rfl
    | write8 | write32 => cases hi
  case reservedSpace a acc =>
    cases acc with
    | read8 | read32 => rw [execReservedSpace_next h]; rfl
    | write8 | write32 => cases hi
  all_goals
    rename_i acc
    cases acc with
    | read => cases h; rfl
    | write => cases hi

/-! ## The operands of a running operation -/

/-- The engine-input registers of R19 are equal. -/
def SameInputRegisters (s t : State) : Prop :=
  t.rxPolls = s.rxPolls ∧ t.seekLimit = s.seekLimit ∧ t.encFrameId = s.encFrameId ∧
    t.encAddr16 = s.encAddr16 ∧ t.encAddr64Lo = s.encAddr64Lo ∧ t.encAddr64Hi = s.encAddr64Hi ∧
    t.encPayloadSize = s.encPayloadSize

theorem SameInputRegisters.sameOperands {s t : State} (h : SameInputRegisters s t)
    (hb : ∀ i, i < s.params.txPayloadCap → t.bufByte .txPayload i = s.bufByte .txPayload i) :
    Claims.SameOperands s t := by
  obtain ⟨h1, h2, h3, h4, h5, h6, h7⟩ := h
  exact ⟨h1, h2, h3, h4, h5, h6, h7, hb⟩

/-- R146: a host access makes a write to an engine input with the engine IDLE only. -/
theorem HostEffect.inputRegisters_kept {s t : State} (h : HostEffect s t) (hs : s.est ≠ .idle) :
    SameInputRegisters s t := by
  cases h with
  | rxPolls hi | seekLimit hi | frameId hi | addr16 hi | addr64Lo hi | addr64Hi hi | payloadSize hi =>
    exact absurd hi hs
  | same | read | err | encSize | startEncode | startDecode | clear | intEn | payload =>
    exact ⟨rfl, rfl, rfl, rfl, rfl, rfl, rfl⟩

theorem DecoderOnly.inputRegisters_kept {s t : State} (h : DecoderOnly s t) : SameInputRegisters s t := by
  rw [h]
  exact ⟨rfl, rfl, rfl, rfl, rfl, rfl, rfl⟩

theorem PollEffect.inputRegisters_kept {s t : State} (h : PollEffect s t) : SameInputRegisters s t := by
  rcases h.goes_on_or_finishes with ht | ⟨u, k, rfl, hu⟩
  · exact ht.inputRegisters_kept
  · exact hu.inputRegisters_kept

theorem step_inputRegisters_kept {s t : State} (h : step s = .next t) (hs : s.est ≠ .idle)
    (hrst : s.nextEvent ≠ .rst) : SameInputRegisters s t := by
  rcases step_next_cases h with ⟨_, _, _, _, _, _, hhost⟩ | ⟨_, _, hpoll⟩ | ⟨_, _, _, rfl⟩ |
    ⟨_, _, rfl⟩ | ⟨hev, _⟩ | ⟨_, rfl⟩
  · exact hhost.inputRegisters_kept hs
  · obtain ⟨l, k, e⟩ := s.popEvent.popAnswer_eq
    rw [e] at hpoll
    exact hpoll.inputRegisters_kept
  · exact ⟨rfl, rfl, rfl, rfl, rfl, rfl, rfl⟩
  · exact ⟨rfl, rfl, rfl, rfl, rfl, rfl, rfl⟩
  · exact absurd hev hrst
  · exact ⟨rfl, rfl, rfl, rfl, rfl, rfl, rfl⟩

/-- Settles O52: the registers by the cases of a step, the buffer because its bytes have one writer (O55). -/
theorem operandsAreFrozenWhileBusy : Obligations.OperandsAreFrozenWhileBusy := by
  intro s t hinv hs h
  have hbytes : ∀ i, i < s.params.txPayloadCap → t.bufByte .txPayload i = s.bufByte .txPayload i := by
    intro i hi
    by_contra hne
    obtain ⟨hpayload, _⟩ := bufferBytesChangeOnlyByTheirWriters s t i hinv h
    exact hs (hpayload hi hne).1
  exact ⟨fun hrst => (step_inputRegisters_kept h hs hrst).sameOperands hbytes, hbytes⟩

/-! ## Escaping ahead -/

/-- A store over a whole earlier one leaves what it would have left without it. -/
theorem Memory.store_store_of_within {p : Params} {b : Buf} {m : Memory} {i j : Nat} {l r : List Byte}
    (hm : Memory.wf m) (hi : i ≤ j) (hr : j + r.length ≤ i + l.length) :
    Memory.store p b (Memory.store p b m j r) i l = Memory.store p b m i l := by
  refine Memory.ext_of_read (Memory.store_wf _ _ _ _ (Memory.store_wf _ _ _ _ hm))
    (Memory.store_wf _ _ _ _ hm) fun a => ?_
  rw [Memory.read_store, Memory.read_store, Memory.read_store]
  split
  · rfl
  · rw [if_neg (by omega)]

/-- While an ENCODE runs a step writes nothing but bytes of TX_OUT within the wire frame. -/
theorem BufferWrite.of_encRun {s t : State} (hw : BufferWrite s t) (hs : s.est = .encRun) :
    ∃ i l, i + l.length ≤ s.wire.length ∧ t.mem = (s.putBytes .txOut i l).mem := by
  cases hw with
  | none hm => exact ⟨0, [], by simp, hm⟩
  | payload hi => simp [hs] at hi
  | txOut _ i l hl hm => exact ⟨i, l, hl, hm⟩
  | rxBuf hb => simp [hs] at hb

/-- The wire frame is made of operands, so what stands in TX_OUT does not show in it (R109). -/
theorem State.Inv.wire_putBytes_txOut {s : State} (h : s.Inv) (hs : s.est = .encRun) (i : Nat) (l : List Byte) :
    (s.putBytes .txOut i l).wire = s.wire := by
  have hbytes : ∀ k, k < s.payloadSize →
      (s.putBytes .txOut i l).bufByte .txPayload k = s.bufByte .txPayload k := by
    intro k hk
    by_contra hne
    have hfit : k < s.params.txPayloadCap := hk.trans_le (h.fits hs)
    exact absurd (State.bufByte_putBytes_changed h.params hfit hne).1 nofun
  have hframe : (s.putBytes .txOut i l).logicalFrame = s.logicalFrame :=
    State.logicalFrame_congr rfl rfl rfl rfl rfl hbytes
  rw [State.wire, State.wire, hframe]

/-- The completion step writes over whatever the wire frame's place in TX_OUT held. -/
theorem State.Inv.completeEncode_of_txOut {s : State} (h : s.Inv) (hs : s.est = .encRun) {i : Nat} {l : List Byte}
    (hl : i + l.length ≤ s.wire.length) (k : Nat) :
    State.completeEncode { s.putBytes .txOut i l with escIdx := k } = s.completeEncode := by
  have hwire : State.wire { s.putBytes .txOut i l with escIdx := k } = s.wire := h.wire_putBytes_txOut hs i l
  have hmem : Memory.store s.params .txOut (Memory.store s.params .txOut s.mem i l) 0 s.wire =
      Memory.store s.params .txOut s.mem 0 s.wire :=
    Memory.store_store_of_within h.memWf (Nat.zero_le i) (by omega)
  simp only [State.completeEncode, hwire]
  simp only [State.putBytes, hmem]

/-- An escape changes the memory and counts its byte, and no more. -/
theorem State.emit_eq (s : State) (w : List Byte) :
    s.emit w = { s with mem := (s.emit w).mem, escIdx := s.escIdx + 1 } := rfl

/-- Settles O36: an escape writes within the wire frame, and the completion step writes over it. -/
theorem escapingAheadIsInvisible : Obligations.EscapingAheadIsInvisible := by
  intro s t x i h hx hd hexec
  obtain ⟨hs, _⟩ := State.escapeNext_eq_some hx
  cases hd
  rw [exec_decodeTx hx] at hexec
  cases hexec
  obtain ⟨j, l, hl, hm⟩ := (bufferWrite_emit hx).of_encRun hs
  have hm' : (s.emit (esc x)).mem = (s.putBytes .txOut j l).mem := hm
  rw [State.emit_eq, hm']
  exact h.completeEncode_of_txOut hs hl _

end Sys2Proof.Machine

/-! PROOFS of the family 30_encoding: the decoder and the encoder are inverse, events and polled bytes meet their rows,
the logical frame and its wire form, and the escape stage. -/

namespace Sys2Proof.Machine

/-! ## Words and rows, format by format

For each format: the word of a row decodes to it, and the row of a word has that word. -/

/-- R84: the row of the two low bits of a command. -/
def cmdRow (op : Nat) (ign : BitVec 30) : Instr :=
  match op with
  | 0 => .nop ign
  | 1 => .encode ign
  | 2 => .decode ign
  | _ => .rsvdOp ign

theorem decodeCmd_eq_cmdRow (v : Word) : decodeCmd v = cmdRow (v.toNat % 4) (BitVec.ofNat 30 (v.toNat / 4)) := by
  unfold decodeCmd cmdRow
  rfl

theorem cmdRow_wellFormed (op : Nat) (ign : BitVec 30) : WellFormed (cmdRow op ign) = true := by
  unfold cmdRow
  split <;> rfl

theorem encode_cmdRow {op : Nat} (h : op < 4) (ign : BitVec 30) : encode (cmdRow op ign) = cmdCode ign op := by
  match op with
  | 0 | 1 | 2 | 3 => rfl

theorem decode_cmdCode (ign : BitVec 30) {op : Nat} (h : op < 4) :
    decode (cmdCode ign op) = .row (cmdRow op ign) := by
  have hign := ign.isLt
  have hword : (BitVec.ofNat 32 (4 * ign.toNat + op)).toNat = 4 * ign.toNat + op := by
    rw [BitVec.toNat_ofNat, Nat.mod_eq_of_lt (by omega)]
  have hop : (4 * ign.toNat + op) % 4 = op := by omega
  have hrest : (4 * ign.toNat + op) / 4 = ign.toNat := by omega
  rw [cmdCode, decode, decodeCmd_eq_cmdRow, hword, hop, hrest, BitVec.ofNat_toNat, BitVec.setWidth_eq]

theorem cmdCode_of_word (v : Word) : cmdCode (BitVec.ofNat 30 (v.toNat / 4)) (v.toNat % 4) = .cmd32 v := by
  have hv := v.isLt
  have hrest : (BitVec.ofNat 30 (v.toNat / 4)).toNat = v.toNat / 4 := by
    rw [BitVec.toNat_ofNat, Nat.mod_eq_of_lt (by omega)]
  rw [cmdCode, hrest, Nat.div_add_mod, BitVec.ofNat_toNat, BitVec.setWidth_eq]

/-- R15: a state has one code. -/
theorem Est.code_of_ofCode {n : Nat} {e : Est} (h : Est.ofCode n = some e) : n = e.code := by
  unfold Est.ofCode at h
  split at h <;> cases h <;> rfl

/-- R82: an RXBYTE word is the code of its state and its byte. -/
theorem rxByte_eq_rxCode {key : BitVec 11} {e : Est} (h : Est.ofCode (key.toNat / 256) = some e) :
    .rxByte key = rxCode e (key.setWidth 8) := by
  have hcode := Est.code_of_ofCode h
  have hbyte : (key.setWidth 8).toNat = key.toNat % 256 := BitVec.toNat_setWidth 8 key
  rw [rxCode, ← hcode, hbyte, Nat.div_add_mod, BitVec.ofNat_toNat, BitVec.setWidth_eq]

/-- The class of a raw byte is a well-formed row whose word is the byte's. -/
theorem encode_decodeRx {e : Est} {b : Byte} {i : Instr} (h : decodeRx e b = some i) :
    WellFormed i = true ∧ encode i = rxCode e b := by
  cases e <;> simp only [decodeRx, Option.some.injEq, reduceCtorEq] at h
  all_goals
    subst h
    (repeat' split) <;> simp_all [WellFormed, encode, delimiter, escapeByte]

/-- R83: the plain bytes are those that are not reserved. -/
theorem decodeTx_of_not_reserved {x : Byte} (h : reservedByte x = false) : decodeTx x = .txPlain x := by
  simp only [reservedByte, Bool.or_eq_false_iff, beq_eq_false_iff_ne] at h
  obtain ⟨⟨⟨h7E, h7D⟩, h11⟩, h13⟩ := h
  rw [decodeTx, if_neg h7E, if_neg h7D, if_neg h11, if_neg h13]

theorem encode_decodeTx (x : Byte) : WellFormed (decodeTx x) = true ∧ encode (decodeTx x) = .txByte x := by
  unfold decodeTx
  (repeat' split) <;> simp_all [WellFormed, encode, reservedByte]

theorem encode_decodeType {x : Byte} {i : Instr} (h : decodeType x = some i) :
    WellFormed i = true ∧ encode i = .fType x := by
  unfold decodeType at h
  (repeat' split at h) <;> cases h <;> simp_all [WellFormed, encode]

/-! Registers (R19, R47). -/

theorem decode_regCode {a : Addr} (acc : RegAccess) (ha : a.toNat < 0x100) (hal : a.toNat % 4 = 0) :
    decode (regCode a acc) = .row (regRow a acc) := by
  cases acc <;> simp [decode, decodeBus, regCode, regAccess, Transaction.addr, ha, hal]

theorem regCode_of_regAccess {t : Transaction} {acc : RegAccess} (h : regAccess t = some acc) :
    regCode t.addr acc = .bus t ∧ Claims.canonical (.bus t) = .bus t := by
  cases t with
  | read a n | write a n d =>
    simp only [regAccess] at h
    split at h
    · rename_i hn
      obtain ⟨rfl, _⟩ := hn
      cases h
      exact ⟨rfl, rfl⟩
    · cases h

theorem regRow_of_reserved {a : Addr} (acc : RegAccess) (h : 0x3C ≤ a.toNat) :
    regRow a acc = .reservedSpace a acc.toWin := by
  unfold regRow
  split
  case h_16 => rfl
  all_goals omega

theorem encode_regRow (a : Addr) (acc : RegAccess) : encode (regRow a acc) = regCode a acc := by
  unfold regRow
  split
  case h_16 => cases acc <;> rfl
  all_goals
    rename_i h
    have ha : BitVec.ofNat 20 a.toNat = a := by rw [BitVec.ofNat_toNat, BitVec.setWidth_eq]
    rw [h] at ha
    subst ha
    rfl

/-! Windows (R48, R51). -/

theorem decode_winCode {a : Addr} {acc : WinAccess} (ha : 0x100 ≤ a.toNat) (hal : acc.alignedAt a.toNat = true) :
    decode (winCode a acc) = .row (winRow a acc) := by
  have hlow : ¬a.toNat < 0x100 := by omega
  cases acc with
  | read8 => simp [decode, decodeBus, winCode, winAccess, Transaction.addr, hlow]
  | write8 v => simp [decode, decodeBus, winCode, winAccess, Transaction.addr, hlow]
  | read32 | write32 v =>
    have hmod : a.toNat % 4 = 0 := by simpa [WinAccess.alignedAt, WinAccess.size] using hal
    simp [decode, decodeBus, winCode, winAccess, Transaction.addr, hlow, hmod]

theorem winCode_of_winAccess {t : Transaction} {acc : WinAccess} (h : winAccess t = some acc) :
    winCode t.addr acc = Claims.canonical (.bus t) := by
  cases t with
  | read a n | write a n d =>
    simp only [winAccess] at h
    (repeat' split at h) <;> cases h <;> simp_all [winCode, Claims.canonical, Transaction.addr]

/-- R51: the host address of an offset in a window. -/
def winAddr {w : Nat} (base : Nat) (off : BitVec w) : Addr := BitVec.ofNat 20 (base + off.toNat)

section
variable {w base : Nat}

theorem winAddr_toNat (off : BitVec w) (hfit : base + 2 ^ w ≤ 2 ^ 20) :
    (winAddr base off).toNat = base + off.toNat := by
  have hoff := off.isLt
  rw [winAddr, BitVec.toNat_ofNat, Nat.mod_eq_of_lt (by omega)]

theorem setWidth_winAddr (off : BitVec w) (hfit : base + 2 ^ w ≤ 2 ^ 20) (hbase : base % 2 ^ w = 0) :
    (winAddr base off).setWidth w = off := by
  apply BitVec.eq_of_toNat_eq
  rw [BitVec.toNat_setWidth, winAddr_toNat off hfit, Nat.add_mod, hbase, Nat.zero_add, Nat.mod_mod,
    Nat.mod_eq_of_lt off.isLt]

theorem winAddr_setWidth {a : Addr} (hbase : base % 2 ^ w = 0) (hlo : base ≤ a.toNat)
    (hhi : a.toNat < base + 2 ^ w) : winAddr base (a.setWidth w) = a := by
  have hoff : (a.setWidth w).toNat = a.toNat - base := by
    rw [BitVec.toNat_setWidth, ← Nat.mod_eq_of_lt (show a.toNat - base < 2 ^ w by omega),
      ← Nat.sub_add_cancel hlo, Nat.add_mod, hbase, Nat.add_zero, Nat.mod_mod, Nat.add_sub_cancel]
  rw [winAddr, hoff, Nat.add_sub_cancel' hlo, BitVec.ofNat_toNat, BitVec.setWidth_eq]

/-- The windows begin at multiples of 4, so an access is aligned at its address as at its offset. -/
theorem decode_winCode_winAddr {off : BitVec w} {acc : WinAccess} (hfit : base + 2 ^ w ≤ 2 ^ 20)
    (hlo : 0x100 ≤ base) (h4 : base % 4 = 0) (hal : acc.alignedAt off.toNat = true) :
    decode (winCode (winAddr base off) acc) = .row (winRow (winAddr base off) acc) := by
  have haddr := winAddr_toNat off hfit
  refine decode_winCode (by omega) ?_
  rwa [haddr, WinAccess.alignedAt, Nat.add_mod, h4, Nat.zero_add, Nat.mod_mod]

end

theorem winRow_rxBuf (off : BitVec 16) (acc : WinAccess) : winRow (winAddr 0x10000 off) acc = .winRxBuf off acc := by
  have haddr := winAddr_toNat (base := 0x10000) off (by decide)
  have hoff := off.isLt
  rw [winRow, if_pos (by omega), setWidth_winAddr off (by decide) (by decide)]

theorem winRow_txPayload (off : BitVec 16) (acc : WinAccess) :
    winRow (winAddr 0x20000 off) acc = .winTxPayload off acc := by
  have haddr := winAddr_toNat (base := 0x20000) off (by decide)
  have hoff := off.isLt
  rw [winRow, if_neg (by omega), if_pos (by omega), setWidth_winAddr off (by decide) (by decide)]

theorem winRow_txOut (off : BitVec 18) (acc : WinAccess) : winRow (winAddr 0x40000 off) acc = .winTxOut off acc := by
  have haddr := winAddr_toNat (base := 0x40000) off (by decide)
  have hoff := off.isLt
  rw [winRow, if_neg (by omega), if_neg (by omega), if_pos (by omega), setWidth_winAddr off (by decide) (by decide)]

theorem encode_winRow (a : Addr) (acc : WinAccess) : encode (winRow a acc) = winCode a acc := by
  unfold winRow
  split
  · rename_i h
    exact congrArg (winCode · acc) (winAddr_setWidth (w := 16) (by decide) h.1 h.2)
  split
  · rename_i h
    exact congrArg (winCode · acc) (winAddr_setWidth (w := 16) (by decide) h.1 h.2)
  split
  · rename_i h
    exact congrArg (winCode · acc) (winAddr_setWidth (w := 18) (by decide) h.1 h.2)
  · rfl

/-- A reserved address is no register's and in no window (R51). -/
theorem decode_winCode_reserved {a : Addr} {acc : WinAccess} (ha : reservedAddr a.toNat = true)
    (hacc : reservedAdmits a.toNat acc = true) : decode (winCode a acc) = .row (.reservedSpace a acc) := by
  simp only [reservedAddr, Bool.or_eq_true, Bool.and_eq_true, decide_eq_true_eq] at ha
  simp only [reservedAdmits, Bool.and_eq_true, Bool.or_eq_true, decide_eq_true_eq, beq_iff_eq] at hacc
  obtain ⟨hal, hform⟩ := hacc
  by_cases hreg : a.toNat < 0x100
  · have hmod : acc.size = 4 → a.toNat % 4 = 0 := fun h4 => by simpa [WinAccess.alignedAt, h4] using hal
    have hrow (r : RegAccess) : regRow a r = .reservedSpace a r.toWin := regRow_of_reserved r (by omega)
    cases acc with
    | read8 | write8 v =>
      have hhigh : 0x100 ≤ a.toNat := by simpa [WinAccess.size] using hform
      omega
    | read32 => exact (decode_regCode .read hreg (hmod rfl)).trans (congrArg _ (hrow _))
    | write32 v => exact (decode_regCode (.write v) hreg (hmod rfl)).trans (congrArg _ (hrow _))
  · rw [decode_winCode (by omega) hal, winRow, if_neg (by omega), if_neg (by omega), if_neg (by omega)]

/-! ## Decoding and encoding are inverse -/

/-- Settles O1, format by format: the word of each row is cut apart where decoding cuts it. -/
theorem decodeOfEncodeGivesTheRowBack : Obligations.DecodeOfEncodeGivesTheRowBack := by
  intro i h
  cases i with
  | nop ign | encode ign | decode ign | rsvdOp ign => exact decode_cmdCode ign (by decide)
  | rxSeekDelim | rxLenDelim | rxLenEsc | rxLenEscDelim | rxBodyDelim | rxBodyEsc | rxBodyEscDelim =>
    exact decode_rxCode _ _
  | rxSeekDiscard b | rxLenEscData b | rxBodyEscData b =>
    have hdelim : b ≠ delimiter := by simpa [WellFormed, delimiter] using h
    exact (decode_rxCode _ b).trans (congrArg Decoded.row (if_neg hdelim))
  | rxLenData b | rxBodyData b =>
    obtain ⟨hdelim, hesc⟩ : b ≠ delimiter ∧ b ≠ escapeByte := by
      simpa [WellFormed, delimiter, escapeByte] using h
    exact (decode_rxCode _ b).trans (congrArg Decoded.row ((if_neg hdelim).trans (if_neg hesc)))
  | rxEmpty e => exact rxPoll_row h
  | txEsc7E | txEsc7D | txEsc11 | txEsc13 => rfl
  | txPlain x => exact congrArg Decoded.row (decodeTx_of_not_reserved (by simpa [WellFormed] using h))
  | ftTxRequest | ftRxIndication | ftNoValidFrame => rfl
  | winRxBuf off acc =>
    exact (decode_winCode_winAddr (by decide) (by decide) (by decide) h).trans
      (congrArg Decoded.row (winRow_rxBuf off acc))
  | winTxPayload off acc =>
    exact (decode_winCode_winAddr (by decide) (by decide) (by decide) h).trans
      (congrArg Decoded.row (winRow_txPayload off acc))
  | winTxOut off acc =>
    exact (decode_winCode_winAddr (by decide) (by decide) (by decide) h).trans
      (congrArg Decoded.row (winRow_txOut off acc))
  | reservedSpace a acc =>
    simp only [WellFormed, Bool.and_eq_true] at h
    exact decode_winCode_reserved h.1 h.2
  | _ acc => exact decode_regCode acc (by decide) (by decide)

/-- A host access that decodes is inside the contract, and met a well-formed row (R49). -/
theorem decode_bus_wellFormed {t : Transaction} {i : Instr} (h : decode (.bus t) = .row i) : WellFormed i = true := by
  by_cases ha : Admitted t
  · obtain ⟨j, hj, hw⟩ := decode_bus_of_admitted ha
    cases h.symm.trans hj
    exact hw
  · cases h.symm.trans (decode_bus_of_not_admitted ha)

theorem encode_of_decode_bus {t : Transaction} {i : Instr} (h : decode (.bus t) = .row i) :
    encode i = Claims.canonical (.bus t) := by
  rcases decode_bus_cases h with ⟨acc, hacc, rfl⟩ | ⟨acc, hacc, rfl⟩
  · obtain ⟨hcode, hcanon⟩ := regCode_of_regAccess hacc
    rw [encode_regRow, hcode, hcanon]
  · rw [encode_winRow, winCode_of_winAccess hacc]

theorem Decoded.ofOption_eq_row {o : Option Instr} {i : Instr} (h : Decoded.ofOption o = .row i) : o = some i := by
  cases o with
  | none => cases h
  | some j => cases h; rfl

/-- Settles O2, format by format. -/
theorem encodeOfDecodeGivesTheWordBack : Obligations.EncodeOfDecodeGivesTheWordBack := by
  intro c i h
  cases c with
  | cmd32 v =>
    cases h
    rw [decodeCmd_eq_cmdRow]
    exact ⟨cmdRow_wellFormed _ _, (encode_cmdRow (Nat.mod_lt _ (by decide)) _).trans (cmdCode_of_word v)⟩
  | rxByte key =>
    obtain ⟨e, he, hrow⟩ := Option.bind_eq_some_iff.1 (Decoded.ofOption_eq_row h)
    obtain ⟨hw, hcode⟩ := encode_decodeRx hrow
    exact ⟨hw, hcode.trans (rxByte_eq_rxCode he).symm⟩
  | rxPoll k =>
    obtain ⟨e, he, hrow⟩ := Option.bind_eq_some_iff.1 (Decoded.ofOption_eq_row h)
    split at hrow
    · cases hrow
      have hk : BitVec.ofNat 3 e.code = k := by
        rw [← Est.code_of_ofCode he, BitVec.ofNat_toNat, BitVec.setWidth_eq]
      exact ⟨‹_›, congrArg Code.rxPoll hk⟩
    · cases hrow
  | txByte x =>
    cases h
    exact encode_decodeTx x
  | fType x => exact encode_decodeType (Decoded.ofOption_eq_row h)
  | bus t => exact ⟨decode_bus_wellFormed h, encode_of_decode_bus h⟩

/-! ## Raw bytes and sample words -/

/-- R82: an RXBYTE word is the code of a state and a byte, side by side. -/
theorem decode_rxByte_append (k : BitVec 3) (b : Byte) :
    decode (.rxByte (k ++ b)) = .ofOption ((Est.ofCode k.toNat).bind fun e => decodeRx e b) := by
  have hstate : (k ++ b).toNat / 256 = k.toNat := by
    have hb := b.isLt
    rw [BitVec.toNat_append, ← Nat.shiftLeft_add_eq_or_of_lt hb, Nat.shiftLeft_eq]
    omega
  have hbyte : (k ++ b).setWidth 8 = b := by
    rw [BitVec.setWidth_append, dif_pos (Nat.le_refl 8), BitVec.setWidth_eq]
  rw [decode, hstate, hbyte]

/-- Settles O3, by the class of each state; the states of codes 0 and 1 do not poll, and 7 is no state's code. -/
theorem rawBytesHaveTheirClass : Obligations.RawBytesHaveTheirClass := by
  intro b
  refine ⟨decode_rxByte_append 2 b, decode_rxByte_append 3 b, decode_rxByte_append 4 b,
    decode_rxByte_append 5 b, decode_rxByte_append 6 b, fun k hk => ?_⟩
  rw [decode_rxByte_append]
  simp only [List.mem_cons, List.not_mem_nil, or_false] at hk
  rcases hk with rfl | rfl | rfl <;> rfl

/-- Settles O4, by running the decoder on each word. -/
theorem sampleWordsDecode : Obligations.SampleWordsDecode := by
  unfold Obligations.SampleWordsDecode
  decide

/-! ## Events and polled bytes meet their rows -/

theorem State.nextEvent_of_cons {s : State} {e : Event} {ev : List Event} (h : s.events = e :: ev) :
    s.nextEvent = e := by
  rw [State.nextEvent, h]

/-- An event that does not poll is taken from the schedule, and nothing else is. -/
theorem State.advance_of_not_engine {s : State} {e : Event} {ev : List Event} (h : s.events = e :: ev)
    (he : e ≠ .engine) : s.advance = { s with events := ev } := by
  rw [State.advance_eq, if_neg fun hn => he ((State.nextEvent_of_cons h).symm.trans hn.1), State.popEvent, h]
  rfl

/-- A poll takes its event and its answer (R58). -/
theorem State.advance_of_poll {s : State} {ev : List Event} {a : Answer} {l : List Answer}
    (h : s.events = .engine :: ev) (hl : s.source = a :: l) (hr : s.est.reading = true) :
    s.advance = { s with events := ev, source := l } := by
  rw [State.advance_eq, if_pos ⟨State.nextEvent_of_cons h, hr⟩, State.popAnswer, State.popEvent, h]
  simp only [hl, List.tail_cons]

/-- What a poll takes in, by the answer it gets (R82, R113). -/
theorem State.fetch_of_poll {s : State} (h : s.nextEvent = .engine) (hr : s.est.reading = true) :
    (∀ b, s.nextAnswer = .byte b → s.fetch = .code (s.pollCode b)) ∧
      (s.nextAnswer = .empty → s.fetch = .code (.rxPoll (BitVec.ofNat 3 s.est.code))) := by
  have hrun : s.est ≠ .encRun := fun he => by simp [he, Est.reading] at hr
  have hfetch : s.fetch = s.fetchEngine := by simp only [State.fetch, h]
  rw [hfetch, State.fetchEngine, if_neg hrun, if_pos hr]
  exact ⟨fun b ha => by rw [ha], fun ha => by rw [ha]⟩

theorem State.nextAnswer_of_cons {s : State} {a : Answer} {l : List Answer} (h : s.source = a :: l) :
    s.nextAnswer = a := by
  rw [State.nextAnswer, h]

/-- The step of a host access runs the row of its word. -/
theorem step_of_access {s : State} {t : Transaction} {ev : List Event} {i : Instr}
    (h : s.events = .access t :: ev) (hd : decode (accessCode t) = .row i) :
    step s = exec i { s with events := ev } := by
  have hf : s.fetch = .code (accessCode t) := by simp only [State.fetch, State.nextEvent_of_cons h]
  rw [step_of_row hf hd, State.advance_of_not_engine h nofun]

/-- The step of an escape runs the row of the logical byte it takes. -/
theorem step_of_escape {s : State} {x : Byte} {ev : List Event} (h : s.events = .escape :: ev)
    (hx : s.escapeNext = some x) : step s = exec (decodeTx x) { s with events := ev } := by
  have hf : s.fetch = .code (.txByte x) := by simp only [State.fetch, State.nextEvent_of_cons h, hx]
  rw [step_of_row hf rfl, State.advance_of_not_engine h nofun]

/-- Only a 4-byte write to address 0 is a command (R84; assumption 7). -/
theorem accessCode_of_not_command {t : Transaction} (h : ∀ v, t ≠ .write 0 4 v) : accessCode t = .bus t := by
  cases t with
  | read a n => rfl
  | write a n v =>
    refine if_neg fun hcmd => h v ?_
    rw [hcmd.1, hcmd.2]

/-- Settles O6, from one equation of the step per kind of event. -/
theorem eventsMeetTheirRows : Obligations.EventsMeetTheirRows := by
  intro s ev
  refine ⟨fun v h => ⟨decodeCmd v, rfl, step_of_access h rfl⟩, fun t i h hcmd hd => ?_,
    fun l h hl hr => ?_, fun x i h hx hd => ?_⟩
  · exact step_of_access h (by rwa [accessCode_of_not_command hcmd])
  · obtain ⟨_, hempty⟩ := State.fetch_of_poll (State.nextEvent_of_cons h) hr
    rw [step_of_row (hempty (State.nextAnswer_of_cons hl)) (rxPoll_row hr), State.advance_of_poll h hl hr]
  · cases hd
    exact step_of_escape h hx

/-! The decoder does not branch on the frame type (R90; assumption 8). -/

theorem exec_decodeType {x : Byte} {j : Instr} (h : decodeType x = some j) (s : State) :
    exec j s = acceptType x s := by
  unfold decodeType at h
  (repeat' split at h) <;> cases h <;> subst x <;> rfl

theorem acceptType_eq_acceptBody {s : State} (h : s.atFrameType = true) (x : Byte) :
    acceptType x s = .next (s.gotByte.acceptBody x) := by
  have ht : acceptType x s = .next (s.gotByte.acceptContent x) := if_pos h
  rw [ht, (acceptType_next ht).2]

/-- A raw byte that delivers the first content byte `x` runs a row that accepts `x` (R124, R125). -/
theorem exec_decodeRx_firstContent {s : State} {b x : Byte} {i : Instr} (hx : s.firstContent b = some x)
    (hi : decodeRx s.est b = some i) : exec i s = .next (s.gotByte.acceptBody x) := by
  have ha := State.firstContent_atFrameType hx
  rw [State.firstContent, if_pos ha] at hx
  obtain ⟨hs | hs, _, _⟩ := (State.atFrameType_iff s).1 ha
  · have hesc : s.est ≠ .bodyEsc := by simp [hs]
    rw [if_neg hesc] at hx
    split at hx
    · cases hx
    split at hx <;> cases hx
    rw [hs, decodeRx, if_neg ‹_›, if_neg ‹_›] at hi
    cases hi
    exact pollIn_enabled hs
  · rw [if_pos hs] at hx
    split at hx <;> cases hx
    rw [hs, decodeRx, if_neg ‹_›] at hi
    cases hi
    exact pollIn_enabled hs

/-- An FTYPE row makes the step of the RXBYTE row of the raw byte that delivers its type. -/
theorem exec_decodeType_eq_decodeRx {s : State} {b x : Byte} {i j : Instr} (hx : s.firstContent b = some x)
    (hj : decodeType x = some j) (hi : decodeRx s.est b = some i) : exec j s = exec i s := by
  rw [exec_decodeType hj, acceptType_eq_acceptBody (State.firstContent_atFrameType hx),
    exec_decodeRx_firstContent hx hi]

/-- Settles O7: a polled byte carries its RXBYTE word, or an FTYPE word whose row makes the same step. -/
theorem polledBytesMakeTheirRowsStep : Obligations.PolledBytesMakeTheirRowsStep := by
  intro s ev b l i h hl hr hd
  obtain ⟨hbyte, _⟩ := State.fetch_of_poll (State.nextEvent_of_cons h) hr
  have hf := hbyte b (State.nextAnswer_of_cons hl)
  have hi : decodeRx s.est b = some i := Decoded.ofOption_eq_row ((decode_rxCode _ _).symm.trans hd)
  rw [← State.advance_of_poll h hl hr]
  obtain ⟨he, hdidx, hdlen, _⟩ := s.advance_datapath
  have hfirst : s.advance.firstContent b = s.firstContent b := by
    rw [State.firstContent, State.firstContent, State.atFrameType, State.atFrameType, he, hdidx, hdlen]
  rw [State.pollCode] at hf
  split at hf
  · rename_i x hx
    split at hf
    · rename_i hsome
      obtain ⟨j, hj⟩ := Option.isSome_iff_exists.1 hsome
      rw [step_of_row hf (i := j) (by rw [decode, hj, Decoded.ofOption])]
      exact exec_decodeType_eq_decodeRx (hfirst.trans hx) hj (he ▸ hi)
    · exact step_of_row hf hd
  · exact step_of_row hf hd

/-! A content byte goes to RX_BUF at `didx` (R122). -/

theorem contentAccepted_acceptContent {s : State} (v : Byte) (h : s.didx.toNat < s.params.rxCap) :
    Claims.ContentAccepted s v (s.gotByte.acceptContent v) := by
  have hread : Memory.read (s.putBytes .rxBuf s.didx.toNat [v]).mem (0x10000 + s.didx.toNat) = [v][0]? :=
    State.read_putBytes_inside s rfl (by simp) h
  refine ⟨hread, fun a ha => ?_, rfl⟩
  exact State.read_putBytes_outside (b := .rxBuf) (i := s.didx.toNat) (l := [v]) s
    (by simpa [Buf.base] using ha)

theorem acceptType_contentAccepted {s : State} (h : s.atFrameType = true) (hcap : 1 ≤ s.params.rxCap) (x : Byte) :
    ∃ t, acceptType x s = .next t ∧ Claims.ContentAccepted s x t := by
  obtain ⟨_, hdidx, _⟩ := (State.atFrameType_iff s).1 h
  exact ⟨_, if_pos h, contentAccepted_acceptContent x (by rw [hdidx]; exact hcap)⟩

/-- Settles O25: an FTYPE row accepts its type as content, and so does the RXBYTE row of the byte or of its pair. -/
theorem namedFrameTypesAreContentLikeAnyOther : Obligations.NamedFrameTypesAreContentLikeAnyOther := by
  intro s hdidx hdlen hcap
  have hat (hs : s.est = .body ∨ s.est = .bodyEsc) : s.atFrameType = true :=
    (State.atFrameType_iff s).2 ⟨hs, hdidx, fun h0 => by simp [h0] at hdlen⟩
  refine ⟨fun hs => ?_, fun hs => ?_, fun hs => ?_⟩
  · have hacc := acceptType_contentAccepted (hat hs) hcap
    exact ⟨hacc 0x10, hacc 0x90, hacc 0x00⟩
  · have plain {x : Byte} (hx : x ≠ delimiter ∧ x ≠ escapeByte) : s.firstContent x = some x := by
      rw [State.firstContent, if_pos (hat (.inl hs)), if_neg hx.1, if_neg (by simp [hs]), if_neg hx.2]
    have same {x : Byte} {i j : Instr} (hx : x ≠ delimiter ∧ x ≠ escapeByte) (hj : decodeType x = some j)
        (hi : decodeRx .body x = some i) : exec j s = exec i s :=
      exec_decodeType_eq_decodeRx (plain hx) hj (hs ▸ hi)
    exact ⟨same (x := 0x10) (by decide) rfl rfl, same (x := 0x90) (by decide) rfl rfl,
      same (x := 0x00) (by decide) rfl rfl⟩
  · have paired {b : Byte} (hb : b ≠ delimiter) : s.firstContent b = some (flip20 b) := by
      rw [State.firstContent, if_pos (hat (.inr hs)), if_neg hb, if_pos hs]
    have same {b : Byte} {i j : Instr} (hb : b ≠ delimiter) (hj : decodeType (flip20 b) = some j)
        (hi : decodeRx .bodyEsc b = some i) : exec j s = exec i s :=
      exec_decodeType_eq_decodeRx (paired hb) hj (hs ▸ hi)
    exact ⟨same (b := 0x30) (by decide) rfl rfl, same (b := 0xB0) (by decide) rfl rfl,
      same (b := 0x20) (by decide) rfl rfl⟩

/-! ## Engine rows outside their state -/

theorem pollIn_refused {e : Est} {s : State} (h : s.est ≠ e) (t : State) : pollIn e s t = .refused .notEnabled :=
  if_neg h

theorem acceptType_refused {s : State} (h : ¬((s.est = .body ∨ s.est = .bodyEsc) ∧ s.didx = 0 ∧ s.dlen ≠ 0))
    (x : Byte) : acceptType x s = .refused .notEnabled :=
  if_neg fun ha => h ((State.atFrameType_iff s).1 ha)

theorem escapeStage_refused {s : State} (h : s.est ≠ .encRun) (x : Byte) (w : List Byte) :
    escapeStage x w s = .refused .notEnabled :=
  if_neg fun hx => h (State.escapeNext_eq_some hx).1

theorem execRxEmpty_refused {e : Est} {s : State} (h : s.est ≠ e ∨ e.reading = false) :
    execRxEmpty e s = .refused .notEnabled := by
  unfold execRxEmpty
  split
  · rename_i hr
    exact pollIn_refused (h.resolve_right (by simp [hr])) _
  · rfl

/-- Settles O27: each row tests its state first. -/
theorem engineRowsNeedTheirState : Obligations.EngineRowsNeedTheirState := by
  intro b x e s
  simp only [List.mem_cons, List.not_mem_nil, or_false, forall_eq_or_imp, forall_eq]
  refine ⟨fun h => ?_, fun h => ?_, fun h => ?_, fun h => ?_, fun h => ?_, execRxEmpty_refused,
    fun h => ?_, fun h => ?_⟩
  · exact ⟨pollIn_refused h _, pollIn_refused h _⟩
  · exact ⟨pollIn_refused h _, pollIn_refused h _, pollIn_refused h _⟩
  · exact ⟨pollIn_refused h _, pollIn_refused h _⟩
  · exact ⟨pollIn_refused h _, pollIn_refused h _, pollIn_refused h _⟩
  · exact ⟨pollIn_refused h _, pollIn_refused h _⟩
  · exact ⟨acceptType_refused h _, acceptType_refused h _, acceptType_refused h _⟩
  · have refused := escapeStage_refused h
    exact ⟨refused _ _, refused _ _, refused _ _, refused _ _, refused _ _⟩

/-! ## The wire form -/

/-- R73, with the reserved set as the decoder of TXBYTE words names it. -/
theorem esc_eq (x : Byte) : esc x = if reservedByte x then [0x7D, x ^^^ 0x20] else [x] := by
  rw [esc, inRSV_eq_reservedByte]
  rfl

/-- R77: the XOR that makes the second byte of a pair undoes itself. -/
theorem flip20_xor (x : Byte) : flip20 (x ^^^ 0x20) = x := by
  rw [flip20, BitVec.xor_assoc, BitVec.xor_self, BitVec.xor_zero]

/-- Settles O30: after its first byte a wire form is made of the wire forms of logical bytes. -/
theorem wireFormsHideTheDelimiter : Obligations.WireFormsHideTheDelimiter := by
  refine ⟨fun l b hb => ?_, fun x => ⟨esc_eq x, flip20_xor x⟩⟩
  obtain ⟨x, _, hx⟩ := List.mem_flatMap.1 (show b ∈ l.flatMap esc from hb)
  exact not_delimiter_of_mem_esc x b hx

/-- R74: a byte's wire form follows the wire form of the bytes before it. -/
theorem wireOf_append_cons (l r : List Byte) (x : Byte) :
    wireOf (l ++ x :: r) = wireOf l ++ esc x ++ r.flatMap esc := by
  rw [wireOf_append, List.flatMap_cons, List.append_assoc]

/-- Settles O29: the length counts the wire forms, and the wire frame splits where the logical frame does. -/
theorem wireFrameLengthCountsTheEscapes : Obligations.WireFrameLengthCountsTheEscapes := by
  intro s
  refine ⟨s.wire_length, s.countP_logicalFrame_le, rfl, fun l x r h => ?_⟩
  refine ⟨wireOf l, r.flatMap esc, ?_, wireOf_length l⟩
  rw [State.wire, h, wireOf_append_cons, esc_eq]

/-! ## The logical frame, field by field -/

/-- The 16 bytes of S before the payload (R67, R68, R71). -/
def State.header (s : State) : List Byte :=
  be16 s.lengthField ++ [typeTxRequest, s.encFrameId] ++ be64 s.addr64 ++ be16 s.encAddr16 ++ [0x00, 0x00]

theorem State.header_length (s : State) : s.header.length = 16 := rfl

theorem State.logicalFrame_eq_header (s : State) :
    s.logicalFrame = s.header ++ (s.bufBytes .txPayload 0 s.payloadSize ++ [cksum s.content]) := by
  simp only [State.logicalFrame, State.content, State.header, List.append_assoc]

theorem State.logicalFrame_header {s : State} {k : Nat} (h : k < 16) : s.logicalFrame[k]? = s.header[k]? := by
  rw [State.logicalFrame_eq_header, List.getElem?_append_left (by rwa [State.header_length])]

theorem State.bufBytes_getElem? (s : State) (b : Buf) {i k n : Nat} (h : k < n) :
    (s.bufBytes b i n)[k]? = some (s.bufByte b (i + k)) := by
  simp [State.bufBytes, h]

theorem State.logicalFrame_payload {s : State} {k : Nat} (h : k < s.payloadSize) :
    s.logicalFrame[16 + k]? = some (s.bufByte .txPayload k) := by
  rw [State.logicalFrame_eq_header, List.getElem?_append_right (by rw [State.header_length]; omega),
    State.header_length, Nat.add_sub_cancel_left, List.getElem?_append_left (by rwa [State.bufBytes_length]),
    State.bufBytes_getElem? s _ h, Nat.zero_add]

theorem State.logicalFrame_checksum (s : State) : s.logicalFrame[16 + s.payloadSize]? = some (cksum s.content) := by
  rw [State.logicalFrame_eq_header, List.getElem?_append_right (by rw [State.header_length]; omega),
    State.header_length, Nat.add_sub_cancel_left, List.getElem?_append_right (by rw [State.bufBytes_length]),
    State.bufBytes_length, Nat.sub_self]
  rfl

/-- The content stands between the length field and the checksum (R67). -/
theorem State.logicalFrame_content (s : State) :
    (s.logicalFrame.drop 2).take (14 + s.payloadSize) = s.content := by
  have hdrop : s.logicalFrame.drop 2 = s.content ++ [cksum s.content] := rfl
  rw [hdrop, ← s.content_length, List.take_left']
  rfl

/-- R72 on natural numbers. -/
theorem cksum_eq (c : List Byte) : cksum c = BitVec.ofNat 8 (0xFF - Claims.sumMod c) := by
  apply BitVec.eq_of_toNat_eq
  have hsum : (sum8 c).toNat = Claims.sumMod c := sum8_toNat c
  have hlt := (sum8 c).isLt
  rw [cksum, BitVec.toNat_sub, BitVec.toNat_ofNat, hsum, show (0xFF : Byte).toNat = 0xFF from rfl]
  omega

/-- R69, R97: the two bytes of the length field, on natural numbers. -/
theorem State.be16_lengthField (s : State) :
    be16 s.lengthField = [BitVec.ofNat 8 ((14 + s.payloadSize) / 256), BitVec.ofNat 8 (14 + s.payloadSize)] := by
  have hhigh : s.lengthField.extractLsb' 8 8 = BitVec.ofNat 8 ((14 + s.payloadSize) / 256) := by
    apply BitVec.eq_of_toNat_eq
    rw [State.lengthField, BitVec.extractLsb'_toNat, BitVec.toNat_ofNat, BitVec.toNat_ofNat, Nat.shiftRight_eq_div_pow]
    omega
  have hlow : s.lengthField.extractLsb' 0 8 = BitVec.ofNat 8 (14 + s.payloadSize) := by
    apply BitVec.eq_of_toNat_eq
    rw [State.lengthField, BitVec.extractLsb'_toNat, BitVec.toNat_ofNat, BitVec.toNat_ofNat, Nat.shiftRight_eq_div_pow]
    omega
  rw [be16, hhigh, hlow]

theorem be64_getElem? (v : BitVec 64) {k : Nat} (h : k < 8) :
    (be64 v)[k]? = some (v.extractLsb' (56 - 8 * k) 8) := by
  match k with
  | 0 | 1 | 2 | 3 | 4 | 5 | 6 | 7 => rfl

theorem State.header_addr64 (s : State) {k : Nat} (h : k < 8) : s.header[4 + k]? = (be64 s.addr64)[k]? := by
  match k with
  | 0 | 1 | 2 | 3 | 4 | 5 | 6 | 7 => rfl

/-- Settles O28: the header's fields, the payload and the checksum, each at its place. -/
theorem logicalFrameLayout : Obligations.LogicalFrameLayout := by
  intro s n S
  have hd {k : Nat} {v : Byte} (hk : k < 16) (hv : s.header[k]? = some v) : S[k]? = some v :=
    (State.logicalFrame_header hk).trans hv
  have hlen : s.header[0]? = some (BitVec.ofNat 8 ((14 + n) / 256)) ∧
      s.header[1]? = some (BitVec.ofNat 8 (14 + n)) := by
    rw [State.header, State.be16_lengthField]
    exact ⟨rfl, rfl⟩
  refine ⟨s.logicalFrame_length, hd (by decide) hlen.1, hd (by decide) hlen.2, hd (by decide) rfl, hd (by decide) rfl,
    fun k hk => hd (by omega) ((s.header_addr64 hk).trans (be64_getElem? _ hk)), hd (by decide) rfl,
    hd (by decide) rfl, hd (by decide) rfl, hd (by decide) rfl, fun k hk => State.logicalFrame_payload hk, ?_⟩
  have hcontent : (S.drop 2).take (14 + n) = s.content := s.logicalFrame_content
  rw [hcontent, ← cksum_eq]
  exact s.logicalFrame_checksum

/-! ## The escape stage -/

theorem holds_append {m : Memory} {a : Nat} {l r : List Byte} :
    Claims.Holds m a (l ++ r) ↔ Claims.Holds m a l ∧ Claims.Holds m (a + l.length) r := by
  constructor
  · intro h
    refine ⟨fun k v hk => h k v ?_, fun k v hk => ?_⟩
    · rw [List.getElem?_append_left (List.getElem?_eq_some_iff.1 hk).1, hk]
    · rw [Nat.add_assoc]
      refine h _ v ?_
      rw [List.getElem?_append_right (Nat.le_add_right ..), Nat.add_sub_cancel_left, hk]
  · rintro ⟨hl, hr⟩ k v hk
    by_cases hlt : k < l.length
    · rw [List.getElem?_append_left hlt] at hk
      exact hl k v hk
    · rw [List.getElem?_append_right (by omega)] at hk
      have := hr (k - l.length) v hk
      rwa [show a + l.length + (k - l.length) = a + k by omega] at this

theorem holds_singleton {m : Memory} {a : Nat} {v : Byte} :
    Claims.Holds m a [v] ↔ Memory.read m a = some v := by
  constructor
  · exact fun h => h 0 v rfl
  · intro h k w hk
    obtain ⟨hlt, rfl⟩ := List.getElem?_eq_some_iff.1 hk
    obtain rfl : k = 0 := by simpa using hlt
    exact h

/-- A store that stays within its buffer stands in memory. -/
theorem holds_putBytes (s : State) {b : Buf} {i : Nat} {l : List Byte} (h : i + l.length ≤ Buf.size s.params b) :
    Claims.Holds (s.putBytes b i l).mem (Buf.base b + i) l := by
  intro k v hk
  have hlt := (List.getElem?_eq_some_iff.1 hk).1
  rw [State.read_putBytes_inside s (Nat.add_assoc ..) hlt (by omega), hk]

theorem untouched_putBytes (s : State) (b : Buf) (i : Nat) (l : List Byte) :
    Claims.Untouched s.mem (s.putBytes b i l).mem (Buf.base b + i) (Buf.base b + i + l.length) :=
  fun _ ha => State.read_putBytes_outside s ha

theorem State.cursor_of_first {s : State} (h : s.escIdx = 0) : s.cursor = 1 := by
  rw [State.cursor, h]
  rfl

/-- The wire form of a running ENCODE's next byte fits TX_OUT (R6, R104). -/
theorem State.Inv.cursor_add_esc_le_cap {s : State} (h : s.Inv) {x : Byte} (hx : s.escapeNext = some x) :
    s.cursor + (esc x).length ≤ s.params.txOutCap := by
  obtain ⟨hs, hget⟩ := State.escapeNext_eq_some hx
  have hwire := State.cursor_add_esc_le hget
  have hlen := s.wire_length_le
  have hfit := h.fits hs
  obtain ⟨_, hcap, _⟩ := h.params
  omega

/-- R73, R74: what an escape writes, and where. -/
theorem State.Inv.escaped_emit {s : State} (h : s.Inv) {x : Byte} (hx : s.escapeNext = some x) :
    Claims.Escaped s (esc x) (s.emit (esc x)) := by
  have hcap := h.cursor_add_esc_le_cap hx
  by_cases h0 : s.escIdx = 0
  · have hc := State.cursor_of_first h0
    have hmem : (s.emit (esc x)).mem = (s.putBytes .txOut 0 (delimiter :: esc x)).mem := by
      simp only [State.emit, h0, if_true]
    have hall : Claims.Holds (s.emit (esc x)).mem 0x40000 ([delimiter] ++ esc x) := by
      rw [hmem]
      exact holds_putBytes (b := .txOut) (i := 0) s (by simp only [List.length_cons, Buf.size]; omega)
    obtain ⟨hfirst, hrest⟩ := holds_append.1 hall
    refine ⟨by rwa [hc], fun _ => holds_singleton.1 hfirst, ?_, rfl⟩
    rw [if_pos h0, hc, hmem]
    have := untouched_putBytes s .txOut 0 (delimiter :: esc x)
    rwa [List.length_cons, Nat.add_comm _ 1, ← Nat.add_assoc] at this
  · have hmem : (s.emit (esc x)).mem = (s.putBytes .txOut s.cursor (esc x)).mem := by
      simp only [State.emit, h0, if_false]
    refine ⟨?_, fun h => absurd h h0, ?_, rfl⟩
    · rw [hmem]
      exact holds_putBytes (b := .txOut) s hcap
    · rw [if_neg h0, hmem]
      exact untouched_putBytes s .txOut s.cursor (esc x)

theorem State.Inv.exec_decodeTx_escaped {s : State} (h : s.Inv) {x : Byte} (hx : s.escapeNext = some x) :
    ∃ t, exec (decodeTx x) s = .next t ∧ Claims.Escaped s (esc x) t :=
  ⟨_, exec_decodeTx hx, h.escaped_emit hx⟩

/-- Settles O35: the row of the byte that is next writes its wire form. -/
theorem escapeStageWritesTheWireForm : Obligations.EscapeStageWritesTheWireForm := by
  refine fun s h => ⟨h.exec_decodeTx_escaped, h.exec_decodeTx_escaped, h.exec_decodeTx_escaped,
    h.exec_decodeTx_escaped, fun x hplain hx => ?_⟩
  have hesc : esc x = [x] := by rw [esc_eq, hplain]; rfl
  rw [← decodeTx_of_not_reserved hplain, ← hesc]
  exact h.exec_decodeTx_escaped hx

/-- The frame is made of the operands, the payload within its buffer (R109). -/
theorem logicalFrame_of_sameOperands {s t : State} (h : Claims.SameOperands s t)
    (hfit : s.payloadSize ≤ s.params.txPayloadCap) : t.logicalFrame = s.logicalFrame := by
  obtain ⟨_, _, hid, h16, hlo, hhi, hsize, hbytes⟩ := h
  exact (State.logicalFrame_congr hid.symm h16.symm hlo.symm hhi.symm hsize.symm
    fun k hk => (hbytes k (hk.trans_le hfit)).symm).symm

/-- An escape extends the wire form that TX_OUT holds by that of the byte it takes. -/
theorem holds_wire_of_escaped {s t : State} {w : List Byte} (h : Claims.Escaped s w t)
    (hold : 0 < s.escIdx → Claims.Holds s.mem 0x40000 (wireOf (s.logicalFrame.take s.escIdx))) :
    Claims.Holds t.mem 0x40000 (wireOf (s.logicalFrame.take s.escIdx) ++ w) := by
  obtain ⟨hw, hdelim, hkept, _⟩ := h
  refine holds_append.2 ⟨?_, hw⟩
  by_cases h0 : s.escIdx = 0
  · rw [h0]
    exact holds_singleton.2 (hdelim h0)
  · rw [if_neg h0] at hkept
    intro k v hk
    have hlt : k < s.cursor := (List.getElem?_eq_some_iff.1 hk).1
    rw [hkept _ (by omega)]
    exact hold (Nat.pos_of_ne_zero h0) k v hk

/-- The step of an escape event writes the wire form of the byte it takes. -/
theorem State.Inv.step_escaped {s : State} (h : s.Inv) {ev : List Event} {x : Byte}
    (hev : s.events = .escape :: ev) (hx : s.escapeNext = some x) :
    ∃ t, step s = .next t ∧ Claims.Escaped { s with events := ev } (esc x) t := by
  have hpop : State.Inv { s with events := ev } := { h with }
  rw [step_of_escape hev hx]
  exact hpop.exec_decodeTx_escaped hx

/-- `t` is `s` after its first `k` logical bytes are escaped, the schedule at `ev`. -/
structure EscapedFirst (s : State) (k : Nat) (ev : List Event) (t : State) : Prop where
  inv : t.Inv
  frame : t.logicalFrame = s.logicalFrame
  wire : 0 < k → Claims.Holds t.mem 0x40000 (wireOf (s.logicalFrame.take k))
  rest : t = { s with mem := t.mem, escIdx := k, events := ev }

theorem EscapedFirst.escapeOne {s t : State} {k : Nat} {ev : List Event}
    (h : EscapedFirst s k (.escape :: ev) t) (hs : s.est = .encRun) (hk : k < s.logicalFrame.length) :
    ∃ u, step t = .next u ∧ EscapedFirst s (k + 1) ev u := by
  have hev : t.events = .escape :: ev := by rw [h.rest]
  have hrun : t.est = .encRun := by rw [h.rest]; exact hs
  have hidx : t.escIdx = k := by rw [h.rest]
  have hx : t.escapeNext = some s.logicalFrame[k] := by
    rw [State.escapeNext, if_pos hrun, h.frame, hidx, List.getElem?_eq_getElem hk]
  obtain ⟨u, hstep, hesc⟩ := h.inv.step_escaped hev hx
  have hops : Claims.SameOperands t u :=
    (operandsAreFrozenWhileBusy t u h.inv (by simp [hrun]) hstep).1 (by simp [State.nextEvent_of_cons hev])
  have hframe := logicalFrame_of_sameOperands hops (h.inv.fits hrun)
  have hold : Claims.Holds u.mem 0x40000 (wireOf (t.logicalFrame.take t.escIdx) ++ esc s.logicalFrame[k]) :=
    holds_wire_of_escaped (s := { t with events := ev }) hesc fun h0 => by
      show Claims.Holds t.mem 0x40000 (wireOf (t.logicalFrame.take t.escIdx))
      rw [hidx, h.frame]
      exact h.wire (hidx ▸ h0)
  refine ⟨u, hstep, stepKeepsTheInvariant t u h.inv hstep, hframe.trans h.frame, fun _ => ?_, ?_⟩
  · rw [← List.take_append_getElem hk, wireOf_append_cons, List.flatMap_nil, List.append_nil]
    rwa [hidx, h.frame] at hold
  · obtain ⟨_, _, _, hu⟩ := hesc
    rw [hu, hidx, h.rest]

/-- A running ENCODE escapes its frame byte by byte, one per event. -/
theorem run_escapes {s : State} (h : s.Inv) (hs : s.est = .encRun) (h0 : s.escIdx = 0) (k : Nat) (ev : List Event)
    (hk : k ≤ s.logicalFrame.length) (hev : s.events = List.replicate k Event.escape ++ ev) :
    ∃ t, Host.Core.run Sys2Proof.core k s = .next t ∧ EscapedFirst s k ev t := by
  induction k generalizing ev with
  | zero =>
    refine ⟨s, rfl, h, rfl, fun hpos => absurd hpos (Nat.lt_irrefl 0), ?_⟩
    rw [← h0, show ev = s.events from hev.symm]
  | succ k ih =>
    rw [List.replicate_succ', List.append_assoc] at hev
    obtain ⟨t, hrun, ht⟩ := ih (.escape :: ev) (Nat.le_of_succ_le hk) hev
    obtain ⟨u, hstep, hu⟩ := ht.escapeOne hs hk
    exact ⟨u, run_snoc hrun hstep, hu⟩

/-- Settles O37, by induction on the number of escapes. -/
theorem escapeStageBuildsTheWireFrame : Obligations.EscapeStageBuildsTheWireFrame := by
  intro s k ev h hs h0 hpos hk hev
  obtain ⟨t, hrun, ht⟩ := run_escapes h hs h0 k ev hk hev
  exact ⟨t, hrun, ht.wire hpos, ht.rest⟩

end Sys2Proof.Machine

/-! PROOFS of the family 40_encoder: a decode of a delivered wire frame, the checksum, and the completion of an
ENCODE. -/

namespace Sys2Proof.Machine

/-! ## What a received byte does

The twelve RXBYTE rows as one function of the state, and its composition along a list of raw bytes. -/

/-- What the decoder does with a raw byte once the wait for it has ended (R115 to R119, R124, R125). -/
def State.takeByte (s : State) (b : Byte) : State :=
  match s.est with
  | .idle | .encRun => s
  | .seek => if b = delimiter then { s with est := .len, didx := 0 } else s.discard
  | .len =>
    if b = delimiter then s.finish .framing
    else if b = escapeByte then { s with est := .lenEsc } else s.acceptLen b
  | .lenEsc => if b = delimiter then s.finish .framing else s.acceptLen (flip20 b)
  | .body =>
    if b = delimiter then s.finish .framing
    else if b = escapeByte then { s with est := .bodyEsc } else s.acceptBody b
  | .bodyEsc => if b = delimiter then s.finish .framing else s.acceptBody (flip20 b)

/-- The row of a raw byte does what `takeByte` says, the wait ended (R112). -/
theorem exec_decodeRx {s : State} {b : Byte} {i : Instr} (h : decodeRx s.est b = some i) :
    exec i s = .next (s.gotByte.takeByte b) := by
  have hg : s.gotByte.est = s.est := rfl
  unfold State.takeByte
  rw [hg]
  cases hs : s.est with
  | idle | encRun => rw [hs] at h; cases h
  | seek | len | lenEsc | body | bodyEsc =>
    rw [hs, decodeRx, Option.some.injEq] at h
    subst h
    dsimp only
    (repeat' split) <;> exact pollIn_enabled hs

theorem State.takeByte_keeps (s : State) (b : Byte) :
    (s.takeByte b).dwait = s.dwait ∧ (s.takeByte b).rxPolls = s.rxPolls := by
  unfold State.takeByte State.discard State.acceptLen State.checkCapacity State.acceptBody
  dsimp only
  (repeat' split) <;> exact ⟨rfl, rfl⟩

/-- `s` with these answers and these events to come. -/
def State.withInputs (s : State) (l : List Answer) (ev : List Event) : State :=
  { s with source := l, events := ev }

theorem State.withInputs_bufByte (s : State) (l : List Answer) (ev : List Event) (b : Buf) (i : Nat) :
    (s.withInputs l ev).bufByte b i = s.bufByte b i := rfl

/-! What a byte does, it does whatever is to come after it. -/

section

variable (s : State) (v : Byte) (l : List Answer) (ev : List Event)

theorem State.discard_withInputs : (s.withInputs l ev).discard = s.discard.withInputs l ev := by
  unfold State.discard
  rw [apply_ite (State.withInputs · l ev)]
  rfl

theorem State.checkCapacity_withInputs : (s.withInputs l ev).checkCapacity = s.checkCapacity.withInputs l ev := by
  unfold State.checkCapacity
  rw [apply_ite (State.withInputs · l ev)]
  rfl

theorem State.acceptLen_withInputs : (s.withInputs l ev).acceptLen v = (s.acceptLen v).withInputs l ev := by
  have hsecond := State.checkCapacity_withInputs { s with dlen := s.dlen.extractLsb' 8 8 ++ v } l ev
  unfold State.acceptLen
  rw [apply_ite (State.withInputs · l ev), ← hsecond]
  rfl

theorem State.acceptBody_withInputs : (s.withInputs l ev).acceptBody v = (s.acceptBody v).withInputs l ev := by
  unfold State.acceptBody
  rw [apply_ite (State.withInputs · l ev)]
  rfl

theorem State.takeByte_withInputs : (s.withInputs l ev).takeByte v = (s.takeByte v).withInputs l ev := by
  have hest : (s.withInputs l ev).est = s.est := rfl
  unfold State.takeByte
  rw [hest]
  cases s.est with
  | idle | encRun => rfl
  | seek | len | lenEsc | body | bodyEsc =>
    simp only [apply_ite (State.withInputs · l ev), ← State.discard_withInputs, ← State.acceptLen_withInputs,
      ← State.acceptBody_withInputs]
    rfl

end

/-- From `s`, taking the raw bytes one after the other, each in a reading state, leads to `t`. -/
inductive Takes : State → List Byte → State → Prop
  | nil (s : State) : Takes s [] s
  | cons {s t : State} {b : Byte} {l : List Byte} (hr : s.est.reading = true) (h : Takes (s.takeByte b) l t) :
      Takes s (b :: l) t

theorem Takes.single {s t : State} {b : Byte} (hr : s.est.reading = true) (h : s.takeByte b = t) :
    Takes s [b] t :=
  .cons hr (h ▸ .nil _)

theorem Takes.append {s t u : State} {l r : List Byte} (h : Takes s l t) (h' : Takes t r u) :
    Takes s (l ++ r) u := by
  induction h with
  | nil => exact h'
  | cons hr _ ih => exact .cons hr (ih h')

/-! ## Delivering bytes with waits between them -/

/-- The step of a poll answered Empty (R113). -/
theorem step_of_empty {s : State} (hr : s.est.reading = true) (l : List Answer) (ev : List Event) :
    step (s.withInputs (.empty :: l) (.engine :: ev)) = .next (s.withInputs l ev).emptyPoll := by
  obtain ⟨_, _, hempty, _⟩ := eventsMeetTheirRows (s.withInputs (.empty :: l) (.engine :: ev)) ev
  rw [hempty l rfl rfl hr]
  exact (if_pos hr).trans (pollIn_enabled rfl)

/-- The step of a poll answered with a byte (R112). -/
theorem step_of_byte {s : State} (hr : s.est.reading = true) (b : Byte) (l : List Answer) (ev : List Event) :
    step (s.withInputs (.byte b :: l) (.engine :: ev)) = .next ((s.gotByte.takeByte b).withInputs l ev) := by
  obtain ⟨i, hi⟩ := decodeRx_isSome hr b
  have hrow : decode (rxCode s.est b) = .row i := by rw [decode_rxCode, hi, Decoded.ofOption]
  rw [polledBytesMakeTheirRowsStep (s.withInputs (.byte b :: l) (.engine :: ev)) ev b l i rfl rfl hr hrow,
    ← State.takeByte_withInputs]
  exact exec_decodeRx hi

theorem State.emptyPoll_of_lt {s : State} (h : s.dwait.toNat + 1 < s.polls) :
    s.emptyPoll = { s with dwait := s.dwait + 1 } :=
  if_neg (Nat.not_le.2 h)

/-- Fewer Empty answers than the budget allows only lengthen the wait (R113). -/
theorem run_empties {s : State} (hr : s.est.reading = true) {g : Nat} (hg : s.dwait.toNat + g < s.polls)
    (l : List Answer) (ev : List Event) :
    Host.Core.run Sys2Proof.core g
        (s.withInputs (List.replicate g Answer.empty ++ l) (List.replicate g Event.engine ++ ev)) =
      .next (State.withInputs { s with dwait := s.dwait + BitVec.ofNat 16 g } l ev) := by
  induction g generalizing s with
  | zero =>
    have hzero : s.dwait + BitVec.ofNat 16 0 = s.dwait := BitVec.add_zero _
    rw [hzero]
    rfl
  | succ g ih =>
    have hgo : (s.withInputs (List.replicate g Answer.empty ++ l) (List.replicate g Event.engine ++ ev)).emptyPoll =
        State.withInputs { s with dwait := s.dwait + 1 } (List.replicate g Answer.empty ++ l)
          (List.replicate g Event.engine ++ ev) :=
      State.emptyPoll_of_lt (show s.dwait.toNat + 1 < s.polls by omega)
    have hwait : (s.dwait + 1).toNat = s.dwait.toNat + 1 :=
      Half.toNat_add_one (b := s.rxPolls) (show s.dwait.toNat < s.polls by omega)
    have hsum : s.dwait + 1 + BitVec.ofNat 16 g = s.dwait + BitVec.ofNat 16 (g + 1) := by
      rw [BitVec.add_assoc, Nat.add_comm g 1, BitVec.ofNat_add]
      rfl
    have hrest := ih (s := { s with dwait := s.dwait + 1 }) hr
      (show (s.dwait + 1).toNat + g < s.polls by omega)
    rw [List.replicate_succ, List.replicate_succ, List.cons_append, List.cons_append,
      run_succ g (step_of_empty hr _ _), hgo, hrest, hsum]

theorem State.gotByte_with_dwait (s : State) (w : Half) :
    State.gotByte { s with dwait := w } = s.gotByte := rfl

/-- A byte after a wait within the budget is taken as if it had come at once (R112, R113). -/
theorem run_waited_byte {s : State} (hr : s.est.reading = true) (hw : s.dwait = 0) {g : Nat} (hg : g < s.polls)
    (b : Byte) (l : List Answer) (ev : List Event) :
    Host.Core.run Sys2Proof.core (g + 1)
        (s.withInputs (List.replicate g Answer.empty ++ .byte b :: l)
          (List.replicate g Event.engine ++ .engine :: ev)) =
      .next ((s.takeByte b).withInputs l ev) := by
  have hwait := run_empties hr (by simpa [hw] using hg) (.byte b :: l) (.engine :: ev)
  have hgot : s.gotByte = s := by rw [State.gotByte, ← hw]
  have hbyte := step_of_byte (s := { s with dwait := s.dwait + BitVec.ofNat 16 g }) hr b l ev
  rw [State.gotByte_with_dwait, hgot] at hbyte
  exact run_snoc hwait hbyte

/-- Delivering raw bytes, each after a wait within the budget, leads where taking them leads. -/
theorem Takes.run {s t : State} {l : List (Nat × Byte)} (h : Takes s (l.map Prod.snd) t) (hw : s.dwait = 0)
    (hg : ∀ p ∈ l, p.1 < s.polls) (rest : List Answer) (ev : List Event) :
    Host.Core.run Sys2Proof.core (Claims.answers l).length
        (s.withInputs (Claims.answers l ++ rest)
          (List.replicate (Claims.answers l).length Event.engine ++ ev)) =
      .next (t.withInputs rest ev) := by
  induction l generalizing s with
  | nil => cases h; rfl
  | cons p l ih =>
    obtain ⟨g, b⟩ := p
    cases h with
    | cons hr h =>
    have hanswers : Claims.answers ((g, b) :: l) = List.replicate g Answer.empty ++ .byte b :: Claims.answers l := by
      simp [Claims.answers]
    have hlen : (Claims.answers ((g, b) :: l)).length = g + 1 + (Claims.answers l).length := by
      rw [hanswers, List.length_append, List.length_replicate, List.length_cons]
      omega
    obtain ⟨hwait, hrx⟩ := s.takeByte_keeps b
    have hpolls : (s.takeByte b).polls = s.polls := congrArg BitVec.toNat hrx
    have hbyte := run_waited_byte hr hw (hg _ (List.mem_cons_self ..)) b (Claims.answers l ++ rest)
      (List.replicate (Claims.answers l).length Event.engine ++ ev)
    have hrest := ih h (hwait.trans hw) fun p hp => hpolls ▸ hg p (List.mem_cons_of_mem _ hp)
    rw [hlen, hanswers, List.append_assoc, List.replicate_add, List.replicate_succ', List.append_assoc,
      List.append_assoc, List.cons_append, List.singleton_append, run_add _ _ hbyte, hrest]

/-! ## Taking the wire form of a frame -/

/-- A raw 0x7E stands for no logical byte, and a raw 0x7D for none on its own (R73, R78). -/
theorem not_marker_of_not_inRSV {x : Byte} (h : ¬inRSV x = true) : x ≠ delimiter ∧ x ≠ escapeByte := by
  constructor <;> (rintro rfl; exact h rfl)

theorem flip20_ne_delimiter {x : Byte} (h : inRSV x = true) : flip20 x ≠ delimiter :=
  not_delimiter_of_mem_esc x _ (by simp [esc, h])

theorem flip20_flip20 (x : Byte) : flip20 (flip20 x) = x := flip20_xor x

/-- The wire form of a byte is taken as one step would take the byte: raw, or through the state `w` that waits for the
second byte of its pair (R73, R77). -/
theorem takes_esc {s w t : State} {x : Byte} (hr : s.est.reading = true) (hw : w.est.reading = true)
    (hplain : x ≠ delimiter → x ≠ escapeByte → s.takeByte x = t) (hesc : s.takeByte escapeByte = w)
    (hpair : flip20 x ≠ delimiter → w.takeByte (flip20 x) = t) : Takes s (esc x) t := by
  unfold esc
  split
  · rename_i hx
    exact .cons hr (hesc ▸ .single hw (hpair (flip20_ne_delimiter hx)))
  · rename_i hx
    obtain ⟨hdelim, hescape⟩ := not_marker_of_not_inRSV hx
    exact .single hr (hplain hdelim hescape)

/-- In the length field the wire form of a byte is taken as that length byte (R117 to R119). -/
theorem takes_esc_len {s : State} (hs : s.est = .len) (x : Byte) : Takes s (esc x) (s.acceptLen x) := by
  refine takes_esc (w := { s with est := .lenEsc }) (by rw [hs]; rfl) rfl (fun hd he => ?_) ?_ fun hd => ?_
  · simp only [State.takeByte, hs, if_neg hd, if_neg he]
  · simp only [State.takeByte, hs]
    rfl
  · simp only [State.takeByte, if_neg hd, flip20_flip20]
    rfl

/-- In the body the wire form of a byte is taken as that body byte (R124, R125). -/
theorem takes_esc_body {s : State} (hs : s.est = .body) (x : Byte) : Takes s (esc x) (s.acceptBody x) := by
  refine takes_esc (w := { s with est := .bodyEsc }) (by rw [hs]; rfl) rfl (fun hd he => ?_) ?_ fun hd => ?_
  · simp only [State.takeByte, hs, if_neg hd, if_neg he]
  · simp only [State.takeByte, hs]
    rfl
  · simp only [State.takeByte, if_neg hd, flip20_flip20]
    rfl

theorem Half.toNat_ofNat {n : Nat} (h : n < 2 ^ 16) : (BitVec.ofNat 16 n).toNat = n := by
  rw [BitVec.toNat_ofNat, Nat.mod_eq_of_lt h]

/-- `u` in the body of a frame with content length `len`, the content `c` received (R16, R122). -/
def State.inBody (u : State) (len : Half) (c : List Byte) : State :=
  { u.putBytes .rxBuf 0 c with est := .body, dlen := len, didx := BitVec.ofNat 16 c.length, dsum := sum8 c }

/-- `u` after a decode of a frame with content `c` (R122, R123, R126). -/
def State.decoded (u : State) (c : List Byte) : State :=
  State.finish
    { u.putBytes .rxBuf 0 (c ++ [cksum c]) with
      dlen := BitVec.ofNat 16 c.length, didx := BitVec.ofNat 16 c.length, dsum := sum8 c } .ok

theorem Memory.store_append (p : Params) (b : Buf) (l r : List Byte) (m : Memory) (i : Nat) :
    Memory.store p b m i (l ++ r) = Memory.store p b (Memory.store p b m i l) (i + l.length) r := by
  induction l generalizing m i with
  | nil => rfl
  | cons v l ih =>
    rw [List.cons_append, Memory.store_cons, Memory.store_cons, ih, List.length_cons]
    congr 1
    omega

/-- The first length byte is the high half of L (R120). -/
theorem acceptLen_first {s : State} (hs : s.est = .len) (h0 : s.didx = 0) (x : Byte) :
    s.acceptLen x = { s with dlen := x ++ s.dlen.extractLsb' 0 8, didx := 1 } := by
  rw [State.acceptLen, if_pos h0, ← hs]

/-- The second length byte is the low half of L, and the body of a frame that fits begins (R120, R121). -/
theorem acceptLen_second {s : State} (h1 : s.didx ≠ 0) {x : Byte}
    (hcap : (s.dlen.extractLsb' 8 8 ++ x).toNat + 1 ≤ s.params.rxCap) :
    s.acceptLen x = s.inBody (s.dlen.extractLsb' 8 8 ++ x) [] := by
  rw [State.acceptLen, if_neg h1]
  exact if_neg (Nat.not_lt.2 hcap)

theorem append_extractLsb'_bytes (v : Half) : v.extractLsb' 8 8 ++ v.extractLsb' 0 8 = v :=
  (BitVec.extractLsb'_append_extractLsb'_eq_extractLsb' (len₁ := 8) (len₂ := 8) rfl).trans
    BitVec.extractLsb'_eq_self

/-- The length field of a frame that fits begins its body with nothing received (R120, R121). -/
theorem takes_length {s : State} (hs : s.est = .len) (h0 : s.didx = 0) {v : Half}
    (hcap : v.toNat + 1 ≤ s.params.rxCap) : Takes s ((be16 v).flatMap esc) (s.inBody v []) := by
  have hjoin : (v.extractLsb' 8 8 ++ s.dlen.extractLsb' 0 8).extractLsb' 8 8 ++ v.extractLsb' 0 8 = v := by
    rw [BitVec.extractLsb'_append_eq_left]
    exact append_extractLsb'_bytes v
  have hhigh := takes_esc_len hs (v.extractLsb' 8 8)
  rw [acceptLen_first hs h0] at hhigh
  have hlow := takes_esc_len (s := { s with dlen := v.extractLsb' 8 8 ++ s.dlen.extractLsb' 0 8, didx := 1 }) hs
    (v.extractLsb' 0 8)
  rw [acceptLen_second (show (1 : Half) ≠ 0 by decide) (by rwa [hjoin]), hjoin] at hlow
  rw [be16, List.flatMap_cons, List.flatMap_singleton]
  exact hhigh.append hlow

/-- A content byte is stored after those received before it, and summed with them (R122). -/
theorem acceptBody_inBody {u : State} {len : Half} {c : List Byte} (h : c.length < len.toNat) (x : Byte) :
    (u.inBody len c).acceptBody x = u.inBody len (c ++ [x]) := by
  have hlen := len.isLt
  have hidx : (BitVec.ofNat 16 c.length).toNat = c.length := Half.toNat_ofNat (by omega)
  have hlt : (u.inBody len c).didx < (u.inBody len c).dlen := by
    rw [BitVec.lt_def]
    exact hidx.trans_lt h
  have hsum : sum8 (c ++ [x]) = sum8 c + x := by
    rw [sum8_append, sum8, sum8]
    exact congrArg _ (BitVec.add_zero x)
  rw [State.acceptBody, if_pos hlt, State.inBody, State.inBody, State.acceptContent, hsum]
  simp only [State.putBytes, hidx, Memory.store_append, Nat.zero_add, List.length_append, List.length_singleton,
    BitVec.ofNat_add]
  rfl

/-- Content that the length field announces is stored in order and summed (R122). -/
theorem takes_content {u : State} {len : Half} {c d : List Byte} (h : c.length + d.length ≤ len.toNat) :
    Takes (u.inBody len c) (d.flatMap esc) (u.inBody len (c ++ d)) := by
  induction d generalizing c with
  | nil =>
    rw [List.append_nil]
    exact .nil _
  | cons x d ih =>
    rw [List.length_cons] at h
    have hfirst := takes_esc_body (s := u.inBody len c) rfl x
    rw [acceptBody_inBody (by omega)] at hfirst
    have hrest := ih (c := c ++ [x]) (by rw [List.length_append, List.length_singleton]; omega)
    rw [List.append_assoc, List.singleton_append] at hrest
    exact hfirst.append hrest

/-- The checksum that the content's sum asks for ends the decode OK (R123). -/
theorem acceptBody_cksum {u : State} {c : List Byte} (h : c.length < 2 ^ 16) :
    (u.inBody (BitVec.ofNat 16 c.length) c).acceptBody (cksum c) = u.decoded c := by
  have hlen : (BitVec.ofNat 16 c.length).toNat = c.length := Half.toNat_ofNat h
  have hlast : ¬(u.inBody (BitVec.ofNat 16 c.length) c).didx < (u.inBody (BitVec.ofNat 16 c.length) c).dlen :=
    BitVec.lt_irrefl _
  have hok : cksum c = 0xFF - (u.inBody (BitVec.ofNat 16 c.length) c).dsum := rfl
  rw [State.acceptBody, if_neg hlast, State.acceptChecksum, if_pos hok, State.decoded, State.inBody]
  simp only [State.putBytes, hlen, Memory.store_append, Nat.zero_add]
  rfl

/-- Taking the wire form of a frame that fits RX_BUF decodes it, from the delimiter to the checksum (R128). -/
theorem takes_wireOf {u : State} {c : List Byte} (hu : u.est = .seek) (hlen : c.length < 2 ^ 16)
    (hcap : c.length + 1 ≤ u.params.rxCap) :
    Takes u (wireOf (be16 (BitVec.ofNat 16 c.length) ++ c ++ [cksum c])) (u.decoded c) := by
  have hL : (BitVec.ofNat 16 c.length).toNat = c.length := Half.toNat_ofNat hlen
  have hdelim : Takes u [delimiter] { u with est := .len, didx := 0 } :=
    .single (by rw [hu]; rfl) (by simp only [State.takeByte, hu, if_true])
  have hlength := takes_length (s := { u with est := .len, didx := 0 }) (v := BitVec.ofNat 16 c.length) rfl rfl
    (by rwa [hL])
  have hcontent := takes_content (u := u) (len := BitVec.ofNat 16 c.length) (c := []) (d := c)
    (by rw [hL, List.length_nil, Nat.zero_add])
  have hchecksum := takes_esc_body (s := u.inBody (BitVec.ofNat 16 c.length) c) rfl (cksum c)
  rw [acceptBody_cksum hlen] at hchecksum
  rw [wireOf_append, wireOf_append, List.flatMap_singleton]
  exact ((hdelim.append hlength).append hcontent).append hchecksum

/-- What the end of the decode reports (R126). -/
theorem State.decoded_result (u : State) (c : List Byte) :
    (u.decoded c).decKind = .ok ∧ (u.decoded c).decLen = BitVec.setWidth 32 (BitVec.ofNat 16 c.length) ∧
      (u.decoded c).decFtype = (u.decoded c).bufByte .rxBuf 0 :=
  ⟨rfl, rfl, rfl⟩

/-- A decoded frame stands in RX_BUF, its content and then its checksum (R122, R123). -/
theorem State.decoded_bufByte {u : State} {c : List Byte} (hcap : c.length + 1 ≤ u.params.rxCap) {k : Nat} {v : Byte}
    (hk : (c ++ [cksum c])[k]? = some v) : (u.decoded c).bufByte .rxBuf k = v := by
  have hlt : k < (c ++ [cksum c]).length := (List.getElem?_eq_some_iff.1 hk).1
  have hsize : k < Buf.size u.params .rxBuf := by
    rw [List.length_append, List.length_singleton] at hlt
    exact hlt.trans_le hcap
  have hread : Memory.read (u.decoded c).mem (Buf.base .rxBuf + k) = some v :=
    (State.read_putBytes_inside u (i := 0) (by rw [Nat.zero_add]) hlt (by rwa [Nat.zero_add])).trans hk
  rw [State.bufByte, hread, Option.getD_some]

/-- After the length field, the logical frame is the content and the checksum (R67, R100). -/
theorem State.logicalFrame_after_length {s : State} {k : Nat} {v : Byte} (h : s.logicalFrame[2 + k]? = some v) :
    (s.content ++ [cksum s.content])[k]? = some v := by
  rw [← h, ← List.getElem?_drop]
  rfl

theorem State.takes_wire {s u : State} (hn : s.payloadSize ≤ 65521) (hu : u.est = .seek)
    (hcap : 14 + s.payloadSize + 1 ≤ u.params.rxCap) : Takes u s.wire (u.decoded s.content) := by
  have h := takes_wireOf (c := s.content) hu (by rw [State.content_length]; omega) (by rwa [State.content_length])
  rwa [State.content_length] at h

/-- The step of a DECODE command with the engine IDLE (R110). -/
theorem step_of_decode_command {u : State} {ev : List Event} (hi : u.est = .idle)
    (h : u.events = .access (.write 0 4 2) :: ev) :
    step u = .next (u.startDecode.withInputs u.source ev) := by
  rw [step_of_access (i := decodeCmd 2) h rfl]
  have hidle : ¬State.busy { u with events := ev } = true := (State.not_busy _).2 hi
  exact congrArg Host.Outcome.next (if_neg hidle)

/-- Settles O60: the wire frame is taken from the delimiter to the checksum, and RX_BUF then holds S after its length
field, whose layout is O28. -/
theorem decodingAnEncodedFrameRecoversIt : Obligations.DecodingAnEncodedFrameRecoversIt := by
  intro s u gaps rest ev hn hu hcap hgaps hwait hsrc hev
  have htakes : Takes u.startDecode ((gaps.zip s.wire).map Prod.snd) (u.startDecode.decoded s.content) := by
    rw [List.map_snd_zip hgaps.ge]
    exact State.takes_wire hn rfl hcap
  have hrun := htakes.run rfl (fun p hp => hwait _ (List.of_mem_zip hp).1) rest ev
  have hlen : (BitVec.ofNat 16 s.content.length).toNat = 14 + s.payloadSize := by
    have hsize : s.payloadSize ≤ 65521 := hn
    rw [State.content_length, Half.toNat_ofNat (by omega)]
  obtain ⟨hkind, hdecLen, hftype⟩ := u.startDecode.decoded_result s.content
  have stored {k : Nat} {v : Byte} (h : s.logicalFrame[2 + k]? = some v) :
      (u.startDecode.decoded s.content).bufByte .rxBuf k = v :=
    State.decoded_bufByte (by rwa [State.content_length]) (State.logicalFrame_after_length h)
  have byte {k : Nat} {v : Byte} (h : s.logicalFrame[2 + k]? = some v) :
      ((u.startDecode.decoded s.content).withInputs rest ev).bufByte .rxBuf k = v :=
    (State.withInputs_bufByte ..).trans (stored h)
  obtain ⟨_, _, _, htype, hid, h64, h16, h16', hradius, hoptions, hpayload, _⟩ := logicalFrameLayout s
  refine ⟨(u.startDecode.decoded s.content).withInputs rest ev, ?_, rfl, rfl, hkind, ?_,
    hftype.trans (stored htype), rfl, rfl, byte htype, byte hid, fun k hk => byte ?_, byte h16, byte h16',
    byte hradius, byte hoptions, fun k hk => byte ?_, byte ?_⟩
  · rw [run_succ _ (step_of_decode_command hu hev), hsrc]
    exact hrun
  · show (u.startDecode.decoded s.content).decLen.toNat = 14 + s.payloadSize
    rw [hdecLen, BitVec.toNat_setWidth_of_le (by decide), hlen]
  · rw [← Nat.add_assoc]
    exact h64 k hk
  · rw [← Nat.add_assoc]
    exact hpayload k hk
  · rw [← Nat.add_assoc]
    exact s.logicalFrame_checksum

/-! ## The checksum -/

/-- R72: `sumMod` is the model's sum on natural numbers. -/
theorem sumMod_eq (c : List Byte) : Claims.sumMod c = (sum8 c).toNat := (sum8_toNat c).symm

/-- R105: the checksum is the only byte that completes the sum. -/
theorem eq_cksum_iff (c : List Byte) (k : Byte) : (Claims.sumMod c + k.toNat) % 256 = 0xFF ↔ k = cksum c := by
  have hbytes : (Claims.sumMod c + k.toNat) % 256 = 0xFF ↔ sum8 c + k = 0xFF := by
    rw [BitVec.toNat_inj.symm, BitVec.toNat_add, sumMod_eq]
    rfl
  rw [hbytes, ← sum8_add_cksum c, BitVec.add_right_inj]

/-- Settles O31. -/
theorem checksumCompletesTheSum : Obligations.ChecksumCompletesTheSum :=
  fun c => ⟨(eq_cksum_iff c _).2 rfl, fun k => (eq_cksum_iff c k).1⟩

/-- R107: of two contents that differ in one byte the checksums differ. -/
theorem cksum_inj_byte {c d : List Byte} {x y : Byte} (h : cksum (c ++ x :: d) = cksum (c ++ y :: d)) : x = y := by
  have hsum : sum8 (c ++ x :: d) = sum8 (c ++ y :: d) := (BitVec.sub_right_inj _).1 h
  rw [sum8_append, sum8_append, BitVec.add_right_inj, sum8, sum8, BitVec.add_left_inj] at hsum
  exact hsum

/-- Settles O32: a byte with a bit inverted is another byte. -/
theorem checksumSeesASingleBit : Obligations.ChecksumSeesASingleBit := by
  intro c d x b hb h
  have hbit : x ^^^ (1#8 <<< b) = x ^^^ 0#8 := by
    rw [cksum_inj_byte h, BitVec.xor_zero]
  have hone : (1#8 <<< b).getLsbD b = true := by simp [hb]
  rw [(BitVec.xor_right_inj x).1 hbit] at hone
  simp at hone

/-! ## The completion of an ENCODE -/

/-- R6, R104: the wire frame of a running ENCODE fits TX_OUT. -/
theorem State.Inv.wire_length_le_cap {s : State} (h : s.Inv) (hs : s.est = .encRun) :
    s.wire.length ≤ s.params.txOutCap := by
  have hlen := s.wire_length_le
  have hfit := h.fits hs
  obtain ⟨_, hcap, _⟩ := h.params
  omega

theorem State.completeEncode_encLength_toNat (s : State) : s.completeEncode.encLength.toNat = s.wire.length := by
  have hlen := s.wire_length_le
  have hn : s.payloadSize < 2 ^ 16 := s.encPayloadSize.isLt
  rw [State.completeEncode_encLength, BitVec.toNat_ofNat, Nat.mod_eq_of_lt (by omega)]

/-- The step of the Engine while an ENCODE runs (R96). -/
theorem step_of_encRun {s : State} (hs : s.est = .encRun) (hev : s.nextEvent = .engine) :
    step s = .next s.popEvent.completeEncode := by
  have hf : s.fetch = .complete := by
    have hengine : s.fetch = s.fetchEngine := by simp only [State.fetch, hev]
    rw [hengine, State.fetchEngine, if_pos hs]
  have hadv : s.advance = s.popEvent := by rw [State.advance_eq, if_neg (by simp [hs, Est.reading])]
  rw [step_of_complete hf, hadv]

/-- Settles O33: the completion step stores the wire frame and sets its flag and length. -/
theorem encodeCompletesInOneStep : Obligations.EncodeCompletesInOneStep := by
  intro s h hs hev
  have hlen : s.popEvent.completeEncode.encLength.toNat = s.wire.length :=
    s.popEvent.completeEncode_encLength_toNat
  refine ⟨s.popEvent.completeEncode, step_of_encRun hs hev, ?_, ?_, hlen, hlen.trans s.wire_length, rfl⟩
  · exact holds_putBytes (b := .txOut) (i := 0) s (by rw [Nat.zero_add]; exact h.wire_length_le_cap hs)
  · exact untouched_putBytes s .txOut 0 s.wire

/-- After the completion step TX_OUT begins with the wire frame (R102). -/
theorem State.Inv.completeEncode_bufByte {s : State} (h : s.Inv) (hs : s.est = .encRun) {i : Nat} {v : Byte}
    (hv : s.wire[i]? = some v) : s.completeEncode.bufByte .txOut i = v := by
  have hi : i < s.wire.length := (List.getElem?_eq_some_iff.1 hv).1
  have hread : Memory.read (s.putBytes .txOut 0 s.wire).mem (Buf.base .txOut + i) = some v := by
    rw [← hv]
    exact State.read_putBytes_inside s (i := 0) (by rw [Nat.zero_add]) hi
      (by rw [Nat.zero_add]; exact hi.trans_le (h.wire_length_le_cap hs))
  have hmem : s.completeEncode.mem = (s.putBytes .txOut 0 s.wire).mem := rfl
  rw [State.bufByte, hmem, hread, Option.getD_some]

/-- Settles O34: equal operands make one wire frame, and both completions leave it. -/
theorem encodeReadsOnlyItsOperands : Obligations.EncodeReadsOnlyItsOperands := by
  intro s s' h h' hs hs' hid h16 hlo hhi hsize hbytes
  have hwire : s'.wire = s.wire := by
    rw [State.wire, State.wire, State.logicalFrame_congr hid h16 hlo hhi hsize hbytes]
  refine ⟨?_, fun i hi => ?_⟩
  · rw [State.completeEncode_encLength, State.completeEncode_encLength, hwire]
  · rw [State.completeEncode_encLength_toNat] at hi
    have hv : s.wire[i]? = some s.wire[i] := List.getElem?_eq_getElem hi
    rw [h.completeEncode_bufByte hs hv, h'.completeEncode_bufByte hs' (by rwa [hwire])]

end Sys2Proof.Machine

/-! PROOFS of the family 41_decoder: what each poll row does, the results a decode can end with, and whole reads:
silence, noise, the discard limit, and a body with its checksum. -/

namespace Sys2Proof.Machine

/-! ## DECODE acceptance -/

theorem State.unlessBusy_of_idle {s : State} (h : s.est = .idle) (w : State) : s.unlessBusy w = w :=
  if_neg ((State.not_busy s).2 h)

theorem State.unlessBusy_of_busy {s : State} (h : s.est ≠ .idle) (w : State) : s.unlessBusy w = s.setErr .busyCmd :=
  if_pos ((State.busy_eq s).2 h)

/-- Settles O16: `unlessBusy` decides between the fresh datapath and BUSY_CMD. -/
theorem decodeIsAcceptedOrDropped : Obligations.DecodeIsAcceptedOrDropped := fun _ s =>
  ⟨fun h => congrArg Host.Outcome.next (State.unlessBusy_of_idle h s.startDecode),
    fun h => congrArg Host.Outcome.next (State.unlessBusy_of_busy h s.startDecode)⟩

/-! ## Seeking -/

theorem State.limit_eq_zero (s : State) : s.limit = 0 ↔ s.seekLimit = 0 :=
  BitVec.toNat_inj (y := (0 : Half))

theorem Word.toNat_add_one (w : Word) : (w + 1).toNat = (w.toNat + 1) % 2 ^ 32 := BitVec.toNat_add ..

/-- R115, with the count on natural numbers. -/
theorem State.discard_eq (s : State) : s.discard =
    if s.seekLimit ≠ 0 ∧ s.seekLimit.toNat ≤ (s.decDiscards.toNat + 1) % 2 ^ 32 then
      Claims.finished { s with decDiscards := s.decDiscards + 1 } .seekLimit 0 0x00
    else { s with decDiscards := s.decDiscards + 1, est := .seek } := by
  simp only [ne_eq, ← State.limit_eq_zero, ← Word.toNat_add_one]
  rfl

/-- Settles O19: both rows are enabled in SEEK, and the second discards once the wait has ended. -/
theorem seekingFindsTheDelimiterOrDiscards : Obligations.SeekingFindsTheDelimiterOrDiscards := fun s hs =>
  ⟨pollIn_enabled hs, fun _ => (pollIn_enabled hs).trans (congrArg Host.Outcome.next s.gotByte.discard_eq)⟩

/-! ## The length field -/

/-- R120: the first length byte is the high half of L. -/
theorem State.acceptLen_high {s : State} (h : s.didx = 0) (v : Byte) :
    s.acceptLen v = { s with dlen := v ++ s.dlen.extractLsb' 0 8, didx := 1, est := .len } :=
  if_pos h

/-- R120, R121: the second length byte is the low half of L, and then L + 1 bytes must fit. -/
theorem State.acceptLen_low {s : State} (h : s.didx ≠ 0) (v : Byte) :
    s.acceptLen v =
      if s.params.rxCap < (s.dlen.extractLsb' 8 8 ++ v : BitVec 16).toNat + 1 then
        Claims.finished { s with dlen := s.dlen.extractLsb' 8 8 ++ v } .oversize 0xFFFFFFFD 0x00
      else { s with dlen := s.dlen.extractLsb' 8 8 ++ v, est := .body, didx := 0, dsum := 0 } :=
  if_neg h

/-- Settles O20: a plain byte in LEN is a length byte, the high one at `didx` 0, else the low one. -/
theorem lengthBytesAssembleBigEndian : Obligations.LengthBytesAssembleBigEndian := by
  intro s hs
  refine ⟨pollIn_enabled hs, pollIn_enabled hs, fun b => ⟨fun h => ?_, fun h => ?_⟩⟩
  · exact (pollIn_enabled hs).trans (congrArg _ (State.acceptLen_high (s := s.gotByte) h b))
  · exact (pollIn_enabled hs).trans (congrArg _ (State.acceptLen_low (s := s.gotByte) h b))

/-- Settles O21: LEN_ESC accepts the byte XOR 0x20 as LEN accepts a byte. -/
theorem escapedLengthBytesAreUnescaped : Obligations.EscapedLengthBytesAreUnescaped := by
  intro s hs
  refine ⟨pollIn_enabled hs, fun b => ⟨fun h => ?_, fun h => ?_⟩⟩
  · exact (pollIn_enabled hs).trans (congrArg _ (State.acceptLen_high (s := s.gotByte) h (flip20 b)))
  · exact (pollIn_enabled hs).trans (congrArg _ (State.acceptLen_low (s := s.gotByte) h (flip20 b)))

/-! ## The body -/

/-- R122: below `didx = dlen` a body byte is content, at an index of RX_BUF. -/
theorem acceptBody_contentAccepted {s : State} (hcap : s.dlen.toNat + 1 ≤ s.params.rxCap)
    (h : s.didx.toNat < s.dlen.toNat) (v : Byte) : Claims.ContentAccepted s v (s.gotByte.acceptBody v) := by
  have hcontent : s.gotByte.acceptBody v = s.gotByte.acceptContent v := if_pos h
  rw [hcontent]
  exact contentAccepted_acceptContent v (by omega)

theorem State.acceptBody_of_didx_eq {s : State} (h : s.didx = s.dlen) (v : Byte) :
    s.acceptBody v = s.acceptChecksum v :=
  if_neg (h ▸ BitVec.lt_irrefl _)

/-- R123: at `didx = dlen` a body byte is the checksum, stored after the content. -/
theorem acceptBody_checksumAccepted {s : State} (hcap : s.dlen.toNat + 1 ≤ s.params.rxCap) (h : s.didx = s.dlen)
    (v : Byte) : Claims.ChecksumAccepted s v (s.gotByte.acceptBody v) := by
  rw [State.acceptBody_of_didx_eq (s := s.gotByte) h]
  refine ⟨?_, untouched_putBytes s .rxBuf s.dlen.toNat [v], ?_⟩
  · exact holds_singleton.1 (holds_putBytes s (b := .rxBuf) (i := s.dlen.toNat) hcap)
  · rw [State.acceptChecksum]
    split
    · rename_i hok
      exact (if_pos hok).symm
    · rename_i hbad
      exact (if_neg hbad).symm

/-- Settles O22: a plain byte in BODY is content below `didx = dlen` and the checksum at it. -/
theorem bodyBytesAreContentThenChecksum : Obligations.BodyBytesAreContentThenChecksum := fun _ hs =>
  ⟨pollIn_enabled hs, pollIn_enabled hs, fun b hcap =>
    ⟨fun h => ⟨_, pollIn_enabled hs, acceptBody_contentAccepted hcap h b⟩,
      fun h => ⟨_, pollIn_enabled hs, acceptBody_checksumAccepted hcap h b⟩⟩⟩

/-- Settles O23: BODY_ESC accepts the byte XOR 0x20 as BODY accepts a byte. -/
theorem escapedBodyBytesAreUnescaped : Obligations.EscapedBodyBytesAreUnescaped := fun _ hs =>
  ⟨pollIn_enabled hs, fun b hcap =>
    ⟨fun h => ⟨_, pollIn_enabled hs, acceptBody_contentAccepted hcap h (flip20 b)⟩,
      fun h => ⟨_, pollIn_enabled hs, acceptBody_checksumAccepted hcap h (flip20 b)⟩⟩⟩

/-! ## Empty answers -/

/-- Settles O24: the row is enabled in every reading state, and `emptyPoll` compares the count with the budget. -/
theorem emptyPollsCountThenTimeOut : Obligations.EmptyPollsCountThenTimeOut :=
  fun _ _ hr hs => (if_pos hr).trans (pollIn_enabled hs)

theorem State.emptyPoll_of_le {s : State} (h : s.polls ≤ s.dwait.toNat + 1) :
    s.emptyPoll = Claims.finished s .noData 0 0x00 :=
  if_pos h

section

variable {s : State} (hr : s.est.reading = true) (hw : s.dwait = 0)
include hr hw

/-- Before the budget is used up, `k` Empty answers are a wait of `k` (R113). -/
theorem run_empties_of_lt {k : Nat} (hk : k < s.polls) (l : List Answer) (ev : List Event) :
    Host.Core.run Sys2Proof.core k
        (s.withInputs (List.replicate k Answer.empty ++ l) (List.replicate k Event.engine ++ ev)) =
      .next (State.withInputs { s with dwait := BitVec.ofNat 16 k } l ev) := by
  have hlt : s.dwait.toNat + k < s.polls := by
    rw [hw]
    exact (Nat.zero_add k).trans_lt hk
  have hadd : (0 : Half) + BitVec.ofNat 16 k = BitVec.ofNat 16 k := BitVec.zero_add _
  rw [run_empties hr hlt, hw, hadd]

/-- The Empty answer that uses up the budget ends the decode (R113). -/
theorem run_empties_of_polls (hpolls : s.rxPolls ≠ 0) (l : List Answer) (ev : List Event) :
    Host.Core.run Sys2Proof.core s.polls
        (s.withInputs (List.replicate s.polls Answer.empty ++ l) (List.replicate s.polls Event.engine ++ ev)) =
      .next (Claims.finished (State.withInputs { s with dwait := s.rxPolls - 1 } l ev) .noData 0 0x00) := by
  obtain ⟨p, hp⟩ : ∃ p, s.polls = p + 1 :=
    Nat.exists_eq_succ_of_ne_zero fun h0 => hpolls (BitVec.eq_of_toNat_eq h0)
  have hlast : BitVec.ofNat 16 p = s.rxPolls - 1 := by
    rw [State.polls] at hp
    bv_omega
  have hused : s.polls ≤ (s.rxPolls - 1).toNat + 1 := by
    have hlt : s.polls < 2 ^ 16 := s.rxPolls.isLt
    rw [← hlast, Half.toNat_ofNat (by omega)]
    exact hp.le
  have hwaits := run_empties_of_lt hr hw (show p < s.polls by omega) (.empty :: l) (.engine :: ev)
  rw [hlast] at hwaits
  have hend := State.emptyPoll_of_le (s := State.withInputs { s with dwait := s.rxPolls - 1 } l ev) hused
  rw [hp, List.replicate_succ', List.replicate_succ', List.append_assoc, List.append_assoc, ← hend]
  exact run_snoc hwaits (step_of_empty (s := { s with dwait := s.rxPolls - 1 }) hr l ev)

end

/-- Of a list that begins with `n` copies, the first `k ≤ n` members are copies. -/
theorem replicate_append_drop {α : Type} {a : α} {n k : Nat} {l m : List α} (h : l = List.replicate n a ++ m)
    (hk : k ≤ n) : List.replicate k a ++ l.drop k = l := by
  have htake : l.take k = List.replicate k a := by
    rw [h, List.take_append_of_le_length (by rwa [List.length_replicate]), List.take_replicate, min_eq_left hk]
  rw [← htake, List.take_append_drop]

/-- Settles O56: each Empty answer but the last lengthens the wait, and the last uses up the budget. -/
theorem silenceEndsADecodeOnTheLastPoll : Obligations.SilenceEndsADecodeOnTheLastPoll := by
  intro s rest ev hr hw hpolls hsrc hev
  constructor
  · intro k hk
    have hrun := run_empties_of_lt hr hw hk (s.source.drop k) (s.events.drop k)
    rw [replicate_append_drop hsrc hk.le, replicate_append_drop hev hk.le] at hrun
    exact hrun
  · have hrun := run_empties_of_polls hr hw hpolls rest ev
    rw [State.polls, ← hsrc, ← hev] at hrun
    exact hrun

/-! ## Seeking through noise -/

theorem Word.add_ofNat_succ (w : Word) (n : Nat) : w + BitVec.ofNat 32 (n + 1) = w + BitVec.ofNat 32 n + 1 := by
  rw [BitVec.ofNat_add, ← BitVec.add_assoc]
  rfl

theorem Word.toNat_add_ofNat {w : Word} {n : Nat} (h : w.toNat + n < 2 ^ 32) :
    (w + BitVec.ofNat 32 n).toNat = w.toNat + n := by
  rw [BitVec.toNat_add, BitVec.toNat_ofNat]
  omega

theorem takeByte_noise {s : State} (hs : s.est = .seek) {b : Byte} (hb : b ≠ delimiter) :
    s.takeByte b = s.discard := by
  simp only [State.takeByte, hs, if_neg hb]

/-- Noise that leaves the count below a nonzero limit is counted, and the decode goes on seeking (R115). -/
theorem takeByte_noise_of_below {s : State} (hs : s.est = .seek) {b : Byte} (hb : b ≠ delimiter)
    (h : s.limit ≠ 0 → (s.decDiscards + 1).toNat < s.limit) :
    s.takeByte b = { s with decDiscards := s.decDiscards + 1 } := by
  have hgo : ¬(s.limit ≠ 0 ∧ s.limit ≤ (s.decDiscards + 1).toNat) := fun ⟨hne, hle⟩ =>
    Nat.not_lt.2 hle (h hne)
  rw [takeByte_noise hs hb, State.discard, if_neg hgo, ← hs]

/-- Noise that makes the count a nonzero limit ends the decode (R115). -/
theorem takeByte_noise_of_reached {s : State} (hs : s.est = .seek) {b : Byte} (hb : b ≠ delimiter)
    (hne : s.limit ≠ 0) (hle : s.limit ≤ (s.decDiscards + 1).toNat) :
    s.takeByte b = State.finish { s with decDiscards := s.decDiscards + 1 } .seekLimit :=
  (takeByte_noise hs hb).trans (if_pos ⟨hne, hle⟩)

/-- Noise is discarded and counted, as long as the count stays below a nonzero limit (R115). -/
theorem takes_noise {s : State} (hs : s.est = .seek) {l : List Byte} (hl : ∀ b ∈ l, b ≠ delimiter)
    (hlim : s.limit ≠ 0 → s.decDiscards.toNat + l.length < s.limit) :
    Takes s l { s with decDiscards := s.decDiscards + BitVec.ofNat 32 l.length } := by
  induction l using List.reverseRecOn with
  | nil =>
    have hzero : s.decDiscards + BitVec.ofNat 32 0 = s.decDiscards := BitVec.add_zero _
    rw [List.length_nil, hzero]
    exact .nil s
  | append_singleton l b ih =>
    rw [List.length_append, List.length_singleton] at hlim ⊢
    have hinit := ih (fun c hc => hl c (List.mem_append_left _ hc)) fun hne => (Nat.lt_succ_self _).trans (hlim hne)
    have hbelow : s.limit ≠ 0 → (s.decDiscards + BitVec.ofNat 32 l.length + 1).toNat < s.limit := fun hne => by
      have hlimit : s.limit < 2 ^ 16 := s.seekLimit.isLt
      have hlt := hlim hne
      rwa [← Word.add_ofNat_succ, Word.toNat_add_ofNat (by omega)]
    rw [Word.add_ofNat_succ]
    exact hinit.append (.single (congrArg Est.reading hs)
      (takeByte_noise_of_below (s := { s with decDiscards := s.decDiscards + BitVec.ofNat 32 l.length }) hs
        (hl b (List.mem_append_right _ (List.mem_singleton_self b))) hbelow))

/-- The byte of noise that makes the count the limit ends the decode (R115). -/
theorem takes_noise_to_limit {s : State} (hs : s.est = .seek) {l : List Byte} (hnil : l ≠ [])
    (hl : ∀ b ∈ l, b ≠ delimiter) (hlim : s.decDiscards.toNat + l.length = s.limit) :
    Takes s l (State.finish { s with decDiscards := s.decDiscards + BitVec.ofNat 32 l.length } .seekLimit) := by
  obtain ⟨l, b, rfl⟩ := (List.eq_nil_or_concat' l).resolve_left hnil
  rw [List.length_append, List.length_singleton] at hlim ⊢
  have hinit := takes_noise hs (fun c hc => hl c (List.mem_append_left _ hc)) fun _ => by omega
  have hreached : s.limit ≤ (s.decDiscards + BitVec.ofNat 32 l.length + 1).toNat := by
    have hlimit : s.limit < 2 ^ 16 := s.seekLimit.isLt
    rw [← Word.add_ofNat_succ, Word.toNat_add_ofNat (by omega), hlim]
  have hne : s.limit ≠ 0 := by omega
  rw [Word.add_ofNat_succ]
  exact hinit.append (.single (congrArg Est.reading hs)
    (takeByte_noise_of_reached (s := { s with decDiscards := s.decDiscards + BitVec.ofNat 32 l.length }) hs
      (hl b (List.mem_append_right _ (List.mem_singleton_self b))) hne hreached))

/-- Settles O57: noise is discarded, and the waits between its bytes leave nothing. -/
theorem noiseKeepsADecodeSeeking : Obligations.NoiseKeepsADecodeSeeking := by
  intro s l rest ev hs hlim hw hl hsrc hev
  have hnoise : ∀ b ∈ l.map Prod.snd, b ≠ delimiter := fun b hb => by
    obtain ⟨p, hp, rfl⟩ := List.mem_map.1 hb
    exact (hl p hp).2
  have htakes := takes_noise hs hnoise (absurd (s.limit_eq_zero.2 hlim))
  have hrun := htakes.run hw (fun p hp => (hl p hp).1) rest ev
  rw [← hsrc, ← hev, List.length_map] at hrun
  exact hrun

/-! ## Bytes that come at once -/

/-- Raw bytes that come without a wait lead where taking them leads, whatever the poll budget is: the first of them
ends the wait before it (R112). -/
theorem Takes.run_at_once {s t : State} {l : List Byte} (h : Takes s.gotByte l t) (hne : l ≠ [])
    (rest : List Answer) (ev : List Event) :
    Host.Core.run Sys2Proof.core l.length
        (s.withInputs (l.map Answer.byte ++ rest) (List.replicate l.length Event.engine ++ ev)) =
      .next (t.withInputs rest ev) := by
  induction l generalizing s with
  | nil => exact absurd rfl hne
  | cons b l ih =>
    cases h with
    | cons hr h =>
    have hfirst := step_of_byte (s := s) hr b (l.map Answer.byte ++ rest) (List.replicate l.length Event.engine ++ ev)
    refine (run_succ l.length hfirst).trans ?_
    cases l with
    | nil => cases h; rfl
    | cons c l =>
      have hgot : (s.gotByte.takeByte b).gotByte = s.gotByte.takeByte b := by
        obtain ⟨hwait, _⟩ := s.gotByte.takeByte_keeps b
        rw [State.gotByte, ← State.gotByte_dwait s, ← hwait]
      exact ih (hgot.symm ▸ h) (List.cons_ne_nil c l)

/-- Settles O58: the noise that comes at once is taken up to the limit. -/
theorem theLimitEndsSeekingOnTheLastByteItAllows : Obligations.TheLimitEndsSeekingOnTheLastByteItAllows := by
  intro s l rest ev hs h0 hlim hlen hl hsrc hev
  have hnil : l ≠ [] := by
    rintro rfl
    exact hlim (s.limit_eq_zero.1 hlen.symm)
  have hreach : s.decDiscards.toNat + l.length = s.limit := by
    rw [h0, hlen]
    exact Nat.zero_add _
  have hcount : s.decDiscards + BitVec.ofNat 32 l.length = BitVec.ofNat 32 l.length := by
    rw [h0]
    exact BitVec.zero_add _
  have hrun := (takes_noise_to_limit (s := s.gotByte) hs hnil hl hreach).run_at_once hnil rest ev
  rw [State.gotByte_decDiscards, hcount, ← hsrc, ← hev] at hrun
  exact hrun

/-! ## A body and its checksum -/

/-- In the body the raw bytes of a logical byte, itself or any pair, are taken as that body byte (R124, R125). -/
theorem takes_rawOf_body {s : State} (hs : s.est = .body) {p : Byte × Bool} (hp : Claims.rawLegal p) :
    Takes s (Claims.rawOf p) (s.acceptBody p.1) := by
  obtain ⟨x, paired⟩ := p
  have hr : s.est.reading = true := congrArg Est.reading hs
  cases paired with
  | false =>
    obtain ⟨hdelim, hescape⟩ : x ≠ delimiter ∧ x ≠ escapeByte := hp
    exact .single hr (by simp only [State.takeByte, hs, if_neg hdelim, if_neg hescape])
  | true =>
    have hdelim : flip20 x ≠ delimiter := hp
    have hwait : s.takeByte escapeByte = { s with est := .bodyEsc } := by
      simp only [State.takeByte, hs]
      rfl
    have hpair : State.takeByte { s with est := .bodyEsc } (flip20 x) = s.acceptBody x := by
      simp only [State.takeByte, if_neg hdelim, flip20_flip20]
      rfl
    exact .cons hr (hwait ▸ .single rfl hpair)

/-- Content that the length field announces, however it comes, is stored in order and summed (R122). -/
theorem takes_rawOf_content {u : State} {len : Half} {c : List Byte} {d : List (Byte × Bool)}
    (h : c.length + d.length ≤ len.toNat) (hd : ∀ p ∈ d, Claims.rawLegal p) :
    Takes (u.inBody len c) (d.flatMap Claims.rawOf) (u.inBody len (c ++ d.map Prod.fst)) := by
  induction d generalizing c with
  | nil =>
    rw [List.map_nil, List.append_nil]
    exact .nil _
  | cons p d ih =>
    rw [List.length_cons] at h
    have hfirst := takes_rawOf_body (s := u.inBody len c) rfl (hd p (List.mem_cons_self ..))
    rw [acceptBody_inBody (by omega)] at hfirst
    have hrest := ih (c := c ++ [p.1]) (by rw [List.length_append, List.length_singleton]; omega)
      fun q hq => hd q (List.mem_cons_of_mem _ hq)
    rw [List.append_assoc, List.singleton_append] at hrest
    exact hfirst.append hrest

/-- R105, R136: the byte after a content is its checksum exactly when all the bytes sum to 0xFF. -/
theorem sumMod_append_eq_iff (c : List Byte) (k : Byte) : Claims.sumMod (c ++ [k]) = 0xFF ↔ k = cksum c := by
  have hsum : Claims.sumMod (c ++ [k]) = (Claims.sumMod c + k.toNat) % 256 := by
    simp [Claims.sumMod, Nat.add_mod]
  rw [hsum]
  exact eq_cksum_iff c k

/-- `u` after a body of content length `len`: the content `c`, then the byte `k` as its checksum (R123, R126). -/
def State.judged (u : State) (len : Half) (c : List Byte) (k : Byte) : State :=
  State.finish
    { u.putBytes .rxBuf 0 (c ++ [k]) with
      dlen := len, didx := BitVec.ofNat 16 c.length, dsum := sum8 c }
    (if k = cksum c then .ok else .checksum)

/-- The byte after the content ends the decode (R123). -/
theorem acceptBody_after_content {u : State} {len : Half} {c : List Byte} (h : c.length = len.toNat) (k : Byte) :
    (u.inBody len c).acceptBody k = u.judged len c k := by
  have hidx : (u.inBody len c).didx = (u.inBody len c).dlen := by
    show BitVec.ofNat 16 c.length = len
    rw [h, BitVec.ofNat_toNat, BitVec.setWidth_eq]
  have hmem : Memory.store u.params .rxBuf u.mem 0 (c ++ [k]) =
      ((u.inBody len c).putBytes .rxBuf len.toNat [k]).mem := by
    rw [Memory.store_append, Nat.zero_add, h]
    rfl
  rw [State.acceptBody_of_didx_eq hidx, State.judged, State.putBytes, hmem]
  rfl

/-- What the end of such a body reports (R126), and what it leaves in memory (R130). -/
theorem State.judged_result (u : State) (len : Half) {c : List Byte} {k : Byte}
    (hcap : c.length + 1 ≤ u.params.rxCap) :
    (u.judged len c k).decKind = (if Claims.sumMod (c ++ [k]) = 0xFF then .ok else .checksum) ∧
      (u.judged len c k).decLen = (if Claims.sumMod (c ++ [k]) = 0xFF then len.setWidth 32 else 0xFFFFFFFE) ∧
      Claims.Holds (u.judged len c k).mem 0x10000 (c ++ [k]) ∧
      Claims.Untouched u.mem (u.judged len c k).mem 0x10000 (0x10000 + (c ++ [k]).length) := by
  have hsize : 0 + (c ++ [k]).length ≤ Buf.size u.params .rxBuf := by
    rw [Nat.zero_add, List.length_append]
    exact hcap
  refine ⟨?_, ?_, holds_putBytes u (b := .rxBuf) (i := 0) hsize, untouched_putBytes u .rxBuf 0 (c ++ [k])⟩
  · simp only [sumMod_append_eq_iff]
    rfl
  · simp only [sumMod_append_eq_iff, State.judged, State.finish_decLen, apply_ite (DecKind.length _)]
    rfl

/-- A body of `len` content bytes and one byte more is taken to its judgement, however its bytes come (R128). -/
theorem takes_body {u : State} {len : Half} {d : List (Byte × Bool)} {p : Byte × Bool} (hd : d.length = len.toNat)
    (hlegal : ∀ q ∈ d ++ [p], Claims.rawLegal q) :
    Takes (u.inBody len []) ((d ++ [p]).flatMap Claims.rawOf) (u.judged len (d.map Prod.fst) p.1) := by
  have hcontent := takes_rawOf_content (u := u) (len := len) (c := []) (d := d)
    (by rw [List.length_nil, hd, Nat.zero_add]) fun q hq => hlegal q (List.mem_append_left _ hq)
  have hlast := takes_rawOf_body (s := u.inBody len (d.map Prod.fst)) rfl
    (hlegal p (List.mem_append_right _ (List.mem_singleton_self p)))
  rw [acceptBody_after_content (by rw [List.length_map, hd])] at hlast
  rw [List.flatMap_append, List.flatMap_singleton]
  exact hcontent.append hlast

theorem flatMap_rawOf_ne_nil (d : List (Byte × Bool)) (p : Byte × Bool) : (d ++ [p]).flatMap Claims.rawOf ≠ [] := by
  rw [List.flatMap_append, List.flatMap_singleton, Claims.rawOf]
  split <;> simp

/-- Settles O59: the last byte of the body is judged as its checksum. -/
theorem bodyIsValidExactlyWhenItSumsToFF : Obligations.BodyIsValidExactlyWhenItSumsToFF := by
  intro s l rest ev hs h0 hsum hcap hlen hl hsrc hev
  obtain ⟨d, p, rfl⟩ : ∃ d p, l = d ++ [p] :=
    (List.eq_nil_or_concat' l).resolve_left (List.ne_nil_of_length_eq_add_one hlen)
  have hd : d.length = s.dlen.toNat := by simpa using hlen
  have hbody : s.gotByte.inBody s.dlen [] = s.gotByte := by
    show ({ s.gotByte with est := .body, dlen := s.dlen, didx := 0, dsum := 0 } : State) = s.gotByte
    rw [← hs, ← h0, ← hsum]
    rfl
  have htakes := takes_body (u := s.gotByte) hd hl
  rw [hbody] at htakes
  have hrun := htakes.run_at_once (flatMap_rawOf_ne_nil d p) rest ev
  rw [← hsrc, ← hev] at hrun
  obtain ⟨hkind, hdecLen, hholds, huntouched⟩ := s.gotByte.judged_result s.dlen (c := d.map Prod.fst) (k := p.1)
    (by rw [List.length_map, hd]; exact hcap)
  have hbytes : d.map Prod.fst ++ [p.1] = (d ++ [p]).map Prod.fst := by simp
  rw [hbytes] at hkind hdecLen hholds huntouched
  rw [List.length_map] at huntouched
  exact ⟨_, hrun, rfl, rfl, rfl, rfl, hkind, hdecLen, hholds, huntouched⟩

/-! ## The results of a decode -/

/-- A poll that leaves the engine IDLE ended the decode by `finish`, with a kind; with OK only by the checksum byte, so
that the length is the one the body had (R126). -/
theorem PollEffect.finishes_of_idle {s t : State} (h : PollEffect s t) (hi : t.est = .idle) :
    ∃ (u : State) (k : DecKind), t = u.finish k ∧ u.cmdErr = s.cmdErr ∧ u.errCause = s.errCause ∧
      k ≠ .none ∧ (k = .ok → u.dlen = s.dlen) := by
  cases h with
  | delim | lenEsc | bodyEsc => cases hi
  | framing => exact ⟨_, _, rfl, rfl, rfl, nofun, nofun⟩
  | discard =>
    unfold State.discard at hi ⊢
    dsimp only at hi ⊢
    split at hi
    · exact ⟨_, _, if_pos ‹_›, rfl, rfl, nofun, nofun⟩
    · cases hi
  | acceptLen _ v =>
    unfold State.acceptLen State.checkCapacity at hi ⊢
    split at hi
    · cases hi
    · rename_i hlow
      split at hi
      · exact ⟨_, _, (if_neg hlow).trans (if_pos ‹_›), rfl, rfl, nofun, nofun⟩
      · cases hi
  | acceptBody _ v =>
    unfold State.acceptBody at hi ⊢
    split at hi
    · cases hi
    · refine ⟨_, _, if_neg ‹_›, rfl, rfl, ?_, fun _ => rfl⟩
      split <;> nofun
  | empty hr =>
    unfold State.emptyPoll at hi ⊢
    split at hi
    · exact ⟨_, _, if_pos ‹_›, rfl, rfl, nofun, nofun⟩
    · rw [show s.est = .idle from hi] at hr
      cases hr

/-- A step in which the Engine polls has the effect of a poll on the state whose inputs are taken. -/
theorem PollEffect.of_step {s t : State} (hr : s.est.reading = true) (hev : s.nextEvent = .engine)
    (h : step s = .next t) : PollEffect s.popEvent.popAnswer t := by
  have hidle : s.est ≠ .idle := fun e => by simp [e, Est.reading] at hr
  have hrun : s.est ≠ .encRun := fun e => by simp [e, Est.reading] at hr
  rcases step_next_cases h with ⟨_, _, hother, _⟩ | ⟨_, _, hpoll⟩ | ⟨_, hother, _⟩ | ⟨_, hother, _⟩ |
    ⟨hother, _⟩ | ⟨⟨_, hother⟩ | hother, _⟩
  · exact absurd (hev.symm.trans hother) nofun
  · exact hpoll
  · exact absurd (hev.symm.trans hother) nofun
  · exact absurd hother hrun
  · exact absurd (hev.symm.trans hother) nofun
  · exact absurd hother hidle
  · exact absurd (hev.symm.trans hother) nofun

/-- Settles O26, kind by kind. -/
theorem everyDecodeEndsWithOneResult : Obligations.EveryDecodeEndsWithOneResult := by
  intro s t hr hev h hi
  have hpoll := PollEffect.of_step hr hev h
  obtain ⟨l, n, e⟩ := s.popEvent.popAnswer_eq
  rw [e] at hpoll
  obtain ⟨u, k, rfl, herr, hcause, hkind, hlen⟩ := hpoll.finishes_of_idle hi
  refine ⟨rfl, herr, hcause, ?_⟩
  cases k with
  | none => exact absurd rfl hkind
  | ok => exact .inl ⟨rfl, congrArg (BitVec.setWidth 32) (hlen rfl), rfl⟩
  | noData => exact .inr (.inl ⟨rfl, rfl, rfl⟩)
  | framing => exact .inr (.inr (.inl ⟨rfl, rfl, rfl⟩))
  | checksum => exact .inr (.inr (.inr (.inl ⟨rfl, rfl, rfl⟩)))
  | oversize => exact .inr (.inr (.inr (.inr (.inl ⟨rfl, rfl, rfl⟩))))
  | seekLimit => exact .inr (.inr (.inr (.inr (.inr ⟨rfl, rfl, rfl⟩))))

end Sys2Proof.Machine

/-! PROOFS of the family 42_host_ops: the commands, the reads and writes of the registers, the window accesses, and that
no host access moves an operation in progress. -/

namespace Sys2Proof.Machine

/-! ## Window reads -/

/-- Appending puts the high part above the `m` low bits. -/
theorem toNat_append_mul {n m : Nat} (x : BitVec n) (y : BitVec m) :
    (x ++ y).toNat = x.toNat * 2 ^ m + y.toNat := by
  rw [BitVec.toNat_append, ← Nat.shiftLeft_add_eq_or_of_lt y.isLt, Nat.shiftLeft_eq]

/-- R50: a packed word is little-endian. -/
theorem pack4_toNat (b0 b1 b2 b3 : Byte) :
    (pack4 b0 b1 b2 b3).toNat = b0.toNat + 2 ^ 8 * b1.toNat + 2 ^ 16 * b2.toNat + 2 ^ 24 * b3.toNat := by
  rw [pack4, toNat_append_mul, toNat_append_mul, toNat_append_mul]
  omega

/-- The byte a window shows where its value is not open: the buffer's, 0 at or beyond the size (R52). -/
def State.shownByte (s : State) (b : Buf) (i : Nat) : Nat :=
  if i < Buf.size s.params b then (s.bufByte b i).toNat else 0

/-- The little-endian word a window shows where its value is not open (R50). -/
def State.shownWord (s : State) (b : Buf) (i : Nat) : Word :=
  BitVec.ofNat 32 (s.shownByte b i + 2 ^ 8 * s.shownByte b (i + 1) + 2 ^ 16 * s.shownByte b (i + 2) +
    2 ^ 24 * s.shownByte b (i + 3))

theorem State.seenByte_toNat {s : State} {b : Buf} (h : s.openBuf b = false) (i j : Nat) :
    (s.seenByte b i j).toNat = s.shownByte b i := by
  unfold State.seenByte State.shownByte
  split <;> simp [h]

theorem State.readWin8_closed {s : State} {b : Buf} (h : s.openBuf b = false) (i : Nat) :
    s.readWin8 b i = { s with rdata := BitVec.ofNat 32 (s.shownByte b i) } := by
  rw [State.readWin8, h, ← State.seenByte_toNat h i 0, BitVec.ofNat_toNat]
  rfl

theorem State.readWin32_closed {s : State} {b : Buf} (h : s.openBuf b = false) (i : Nat) :
    s.readWin32 b i = { s with rdata := s.shownWord b i } := by
  have hword : pack4 (s.seenByte b i 0) (s.seenByte b (i + 1) 1) (s.seenByte b (i + 2) 2) (s.seenByte b (i + 3) 3) =
      s.shownWord b i := by
    rw [State.shownWord, ← State.seenByte_toNat h i 0, ← State.seenByte_toNat h (i + 1) 1,
      ← State.seenByte_toNat h (i + 2) 2, ← State.seenByte_toNat h (i + 3) 3, ← pack4_toNat, BitVec.ofNat_toNat,
      BitVec.setWidth_eq]
  rw [State.readWin32, hword, h]
  rfl

/-- The two admitted reads of a window whose value is not open (R60). -/
theorem winOp_closed {s : State} {b : Buf} (h : s.openBuf b = false) (i : Nat) (f : List Byte → State) :
    winOp b i .read8 f s = .next { s with rdata := BitVec.ofNat 32 (s.shownByte b i) } ∧
    (i % 4 = 0 → winOp b i .read32 f s = .next { s with rdata := s.shownWord b i }) :=
  ⟨(winOp_read8 b i f s).trans (congrArg _ (State.readWin8_closed h i)),
    fun hi => (winOp_read32 b f s hi).trans (congrArg _ (State.readWin32_closed h i))⟩

/-- Settles O46: no window is open in the states it names. -/
theorem windowReadsAnswerTheBuffer : Obligations.WindowReadsAnswerTheBuffer := by
  intro s
  refine ⟨fun off hs => ?_, fun off => ?_, fun off hs => ?_⟩
  · have hclosed : s.openBuf .rxBuf = false := by
      rcases hs with hs | hs <;> simp [State.openBuf, hs, Est.reading]
    exact winOp_closed hclosed off.toNat (fun _ => s)
  · exact winOp_closed (b := .txPayload) rfl off.toNat (s.writePayload off.toNat)
  · have hclosed : s.openBuf .txOut = false := by simp [State.openBuf, hs]
    exact winOp_closed hclosed off.toNat (fun _ => s)

/-! ## Window writes -/

theorem winOp_of_written {i : Nat} {acc : WinAccess} {l : List Byte} (b : Buf) (f : List Byte → State) (s : State)
    (hw : acc.written = some l) (h : acc.alignedAt i = true) : winOp b i acc f s = .next (f l) := by
  obtain ⟨t, ht⟩ := winOp_answers b f s h
  rw [ht, winOp_write hw ht]

theorem alignedAt_of_mod {i : Nat} (h : i % 4 = 0) (acc : WinAccess) : acc.alignedAt i = true := by
  simp [WinAccess.alignedAt, h]

theorem reservedTakes_wide {a : Nat} {acc : WinAccess} (hacc : acc.size = 4) (h : a % 4 = 0) :
    reservedTakes a acc = true := by
  simp [reservedTakes_eq_reservedAdmits, reservedAdmits, alignedAt_of_mod h, hacc]

theorem State.inputWrite_of_idle {s : State} (h : s.est = .idle) (w : State) : s.inputWrite w = w :=
  if_neg ((State.not_busy s).2 h)

theorem State.inputWrite_of_busy {s : State} (h : s.est ≠ .idle) (w : State) :
    s.inputWrite w = s.setErr .busyWrite := if_pos ((State.busy_eq s).2 h)

theorem State.writePayload_of_lt {s : State} {i : Nat} (h : i < s.params.txPayloadCap) (l : List Byte) :
    s.writePayload i l = s.inputWrite (s.putBytes .txPayload i l) := if_pos h

theorem State.writePayload_beyond {s : State} {i : Nat} (h : s.params.txPayloadCap ≤ i) (l : List Byte) :
    s.writePayload i l = s := if_neg (by omega)

/-- A store at or beyond the size stores nothing (R52). -/
theorem Memory.store_beyond {p : Params} {b : Buf} {i : Nat} (l : List Byte) (m : Memory) (h : Buf.size p b ≤ i) :
    Memory.store p b m i l = m := by
  induction l generalizing i with
  | nil => rfl
  | cons v l ih => rw [Memory.store_cons, if_neg (by omega), ih (by omega)]

/-- With the engine IDLE the bound that R151 puts on the access is the store's own. -/
theorem State.writePayload_of_idle {s : State} (h : s.est = .idle) (i : Nat) (l : List Byte) :
    s.writePayload i l = s.putBytes .txPayload i l := by
  by_cases hi : i < s.params.txPayloadCap
  · rw [State.writePayload_of_lt hi, State.inputWrite_of_idle h]
  · have hcap : s.params.txPayloadCap ≤ i := Nat.le_of_not_lt hi
    rw [State.writePayload_beyond hcap, State.putBytes, Memory.store_beyond l s.mem hcap]

/-- R50: the bytes of a word, lowest first. -/
theorem unpack4_getElem? (v : Word) {j : Nat} (h : j < 4) : (unpack4 v)[j]? = some (v.extractLsb' (8 * j) 8) := by
  match j with
  | 0 | 1 | 2 | 3 => rfl

/-- A store changes nothing at or beyond the buffer's size (R52). -/
theorem untouched_putBytes_size (s : State) (b : Buf) (i : Nat) (l : List Byte) :
    Claims.Untouched s.mem (s.putBytes b i l).mem (Buf.base b + i)
      (Buf.base b + min (i + l.length) (Buf.size s.params b)) := by
  intro a ha
  rw [State.read_putBytes, if_neg (by omega)]

/-- Settles O48: with the engine IDLE a payload write is a store, and a store stays below the size. -/
theorem payloadWritesStoreBytes : Obligations.PayloadWritesStoreBytes := by
  intro s off b v
  simp only [exec_winTxPayload]
  refine ⟨fun hs => ⟨?_, fun hoff => ?_⟩, fun hcap => ⟨?_, fun hoff => ?_⟩⟩
  · rw [winOp_of_written .txPayload _ s rfl rfl, State.writePayload_of_idle hs]
    exact ⟨_, rfl, rfl, State.read_putBytes_inside s (b := .txPayload) (k := 0) rfl Nat.zero_lt_one,
      untouched_putBytes_size s .txPayload off.toNat [b]⟩
  · rw [winOp_of_written .txPayload _ s rfl (alignedAt_of_mod hoff _), State.writePayload_of_idle hs]
    refine ⟨_, rfl, rfl, fun j hj hcap => ?_, untouched_putBytes_size s .txPayload off.toNat (unpack4 v)⟩
    rw [← unpack4_getElem? v hj]
    exact State.read_putBytes_inside s (b := .txPayload) (Nat.add_assoc ..) hj hcap
  · rw [winOp_of_written .txPayload _ s rfl rfl, State.writePayload_beyond hcap]
  · rw [winOp_of_written .txPayload _ s rfl (alignedAt_of_mod hoff _), State.writePayload_beyond hcap]

/-- Settles O42: the registers by `inputWrite`, TX_PAYLOAD by the index of the access. -/
theorem inputWritesAreDroppedWhileBusy : Obligations.InputWritesAreDroppedWhileBusy := by
  intro v s hs
  have dropped (w : State) : s.inputWrite w = { s with cmdErr := true, errCause := .busyWrite } :=
    State.inputWrite_of_busy hs w
  simp only [exec_winTxPayload]
  refine ⟨fun i hi => ?_, fun off b hoff => ⟨?_, fun hal => ?_, fun far hfar => ⟨?_, fun hal => ?_⟩⟩⟩
  · simp only [List.mem_cons, List.not_mem_nil, or_false] at hi
    rcases hi with rfl | rfl | rfl | rfl | rfl | rfl | rfl <;> exact congrArg Host.Outcome.next (dropped _)
  · rw [winOp_of_written .txPayload _ s rfl rfl, State.writePayload_of_lt hoff, dropped]
  · rw [winOp_of_written .txPayload _ s rfl (alignedAt_of_mod hal _), State.writePayload_of_lt hoff, dropped]
  · rw [winOp_of_written .txPayload _ s rfl rfl, State.writePayload_beyond hfar]
  · rw [winOp_of_written .txPayload _ s rfl (alignedAt_of_mod hal _), State.writePayload_beyond hfar]

/-- Settles O43: the registers and windows it names ignore what they are written, and reserved space does. -/
theorem ignoredWritesChangeNothing : Obligations.IgnoredWritesChangeNothing := by
  intro v b s
  simp only [exec_winRxBuf, exec_winTxOut]
  refine ⟨fun i hi => ?_, fun off => ⟨rfl, fun hoff => ?_⟩, fun off => ⟨rfl, fun hoff => ?_⟩, fun a ha => ?_⟩
  · simp only [List.mem_cons, List.not_mem_nil, or_false] at hi
    rcases hi with rfl | rfl | rfl | rfl | rfl <;> rfl
  · exact winOp_of_written .rxBuf (fun _ => s) s rfl (alignedAt_of_mod hoff _)
  · exact winOp_of_written .txOut (fun _ => s) s rfl (alignedAt_of_mod hoff _)
  · exact exec_reservedSpace s (reservedTakes_wide rfl ha)

/-! ## An operation in progress -/

/-- Equal in the engine state, the decoder's datapath, the escape stage and the buffers. -/
def SameOperation (s t : State) : Prop :=
  t.est = s.est ∧ t.didx = s.didx ∧ t.dlen = s.dlen ∧ t.dsum = s.dsum ∧ t.dwait = s.dwait ∧
    t.escIdx = s.escIdx ∧ t.mem = s.mem

/-- R155: what moves an operation or writes a buffer, a host access does with the engine IDLE only. -/
theorem HostEffect.operation_kept {s t : State} (h : HostEffect s t) (hs : s.est ≠ .idle) : SameOperation s t := by
  cases h with
  | encSize hi | startEncode hi | startDecode hi | payload hi => exact absurd hi hs
  | same | read | err | clear | intEn | rxPolls | seekLimit | frameId | addr16 | addr64Lo | addr64Hi | payloadSize =>
    exact ⟨rfl, rfl, rfl, rfl, rfl, rfl, rfl⟩

/-- A step whose event is a host access has the effect of one. -/
theorem hostEffect_of_step {s t : State} {a : Transaction} (hev : s.nextEvent = .access a) (h : step s = .next t) :
    HostEffect s.popEvent t := by
  rcases step_next_cases h with ⟨_, _, _, _, _, _, hhost⟩ | ⟨he, _⟩ | ⟨_, he, _⟩ | ⟨he, _⟩ | ⟨he, _⟩ |
    ⟨⟨he, _⟩ | he, _⟩
  · exact hhost
  all_goals exact absurd (hev.symm.trans he) nofun

/-- Settles O51, by the effect of the access. -/
theorem noAccessStopsAnOperation : Obligations.NoAccessStopsAnOperation := fun _ _ _ hs hev h =>
  (hostEffect_of_step hev h).operation_kept hs

/-! ## Commands -/

/-- R84, R144: a CMD write has the effect of the row that its word decodes to. -/
theorem exec_regCmd_write (v : Word) (s : State) : exec (.regCmd (.write v)) s = exec (decodeCmd v) s := by
  show Host.Outcome.next (s.writeCmd v) = _
  have hop : v.toNat % 4 < 4 := Nat.mod_lt _ (by decide)
  rw [decodeCmd_eq_cmdRow, State.writeCmd]
  interval_cases v.toNat % 4 <;> rfl

/-- The command of a CMD write is the row of the low two bits. -/
theorem exec_regCmd_of_op {v : Word} {op : BitVec 2} (h : v.extractLsb' 0 2 = op) (s : State) :
    exec (.regCmd (.write v)) s = exec (cmdRow op.toNat (BitVec.ofNat 30 (v.toNat / 4))) s := by
  have hop : op.toNat = v.toNat % 4 := by
    rw [← h, BitVec.extractLsb'_toNat, Nat.shiftRight_zero]
  rw [exec_regCmd_write, decodeCmd_eq_cmdRow, hop]

/-- Settles O17, by the row of a CMD write. -/
theorem reservedCommandIsRecorded : Obligations.ReservedCommandIsRecorded := fun s =>
  ⟨fun _ => rfl, fun _ hv => exec_regCmd_of_op hv s⟩

theorem State.startEncode_of_fits {s : State} (h : s.encPayloadSize.toNat ≤ s.params.txPayloadCap) :
    s.startEncode = { s with est := .encRun, escIdx := 0 } := if_neg (Nat.not_lt.2 h)

theorem State.startEncode_of_too_large {s : State} (h : s.params.txPayloadCap < s.encPayloadSize.toNat) :
    s.startEncode = { s.setErr .encSize with encLength := 0 } := if_pos h

/-- Settles O15: `unlessBusy` comes before the size check. -/
theorem encodeIsAcceptedOrRejected : Obligations.EncodeIsAcceptedOrRejected := by
  intro ign s
  refine ⟨fun hs hfit => congrArg Host.Outcome.next ?_, fun hs hlarge => congrArg Host.Outcome.next ?_,
    fun hs => congrArg Host.Outcome.next (State.unlessBusy_of_busy hs _)⟩
  · rw [State.unlessBusy_of_idle hs, State.startEncode_of_fits hfit]
  · rw [State.unlessBusy_of_idle hs, State.startEncode_of_too_large hlarge]
    rfl

/-- Settles O18: each command's row says what its CMD write does (O15, O16, O17). -/
theorem cmdWriteIsItsCommand : Obligations.CmdWriteIsItsCommand := by
  intro v s
  obtain ⟨hfits, hlarge, hbusyEnc⟩ := encodeIsAcceptedOrRejected (BitVec.ofNat 30 (v.toNat / 4)) s
  obtain ⟨hstart, hbusyDec⟩ := decodeIsAcceptedOrDropped (BitVec.ofNat 30 (v.toNat / 4)) s
  refine ⟨⟨decodeCmd v, rfl, exec_regCmd_write v s⟩, fun hv => exec_regCmd_of_op hv s,
    (reservedCommandIsRecorded s).2 v, ?_, fun hv hs hn => ?_, fun hv hs hn => ?_, fun hv hs => ?_⟩
  · rintro (hv | hv) hs
    · exact (exec_regCmd_of_op hv s).trans (hbusyEnc hs)
    · exact (exec_regCmd_of_op hv s).trans (hbusyDec hs)
  · exact (exec_regCmd_of_op hv s).trans (hlarge hs hn)
  · exact (exec_regCmd_of_op hv s).trans (hfits hs hn)
  · exact (exec_regCmd_of_op hv s).trans (hstart hs)

/-- Settles O14: of the four commands (O18) the other three record an error while BUSY. -/
theorem nopChangesNothing : Obligations.NopChangesNothing := by
  refine ⟨fun _ _ => rfl, fun v s hv => exec_regCmd_of_op hv s, fun v s hs hv => ?_⟩
  obtain ⟨_, _, hrsvd, hbusy, _⟩ := cmdWriteIsItsCommand v s
  have hops : ∀ op : BitVec 2, op ≠ 0b00 → op = 0b11 ∨ op = 0b01 ∨ op = 0b10 := by decide
  rcases hops _ hv with hop | hop
  · exact ⟨_, hrsvd hop, rfl, nofun⟩
  · exact ⟨_, hbusy hop hs, rfl, nofun⟩

/-! ## Register reads -/

/-- A register narrower than the port is read zero-extended (R19). -/
theorem State.answer32_narrow (s : State) {w : Nat} (r : BitVec w) :
    s.answer32 (r.setWidth 32) = { s with rdata := BitVec.ofNat 32 r.toNat } := by
  rw [BitVec.ofNat_toNat]
  rfl

theorem est_code_lt (e : Est) : e.code < 16 := by cases e <;> decide

theorem ErrCause.code_lt (c : ErrCause) : c.code < 16 := by cases c <;> decide

/-- R141: the fields of STATUS stand at bits 0, 1, 2, 3, 4 and 8. -/
theorem State.statusWord_toNat (s : State) : s.statusWord.toNat =
    (if s.est = .idle then 0 else 1) + (if s.encDone then 2 else 0) + (if s.decDone then 4 else 0) +
      (if s.cmdErr then 8 else 0) + 16 * s.est.code + 256 * s.errCause.code := by
  have hflag (c : Bool) (k : Nat) : (if c then k else 0) = k * c.toNat := by cases c <;> simp
  have hbusy : (if s.est = .idle then 0 else 1) = s.busy.toNat := by
    split
    · rw [State.busy, ‹s.est = .idle›]; rfl
    · rw [(State.busy_eq s).2 ‹_›]; rfl
  have hest := est_code_lt s.est
  have hcause := s.errCause.code_lt
  rw [hbusy, hflag, hflag, hflag]
  simp only [State.statusWord, toNat_append_mul, BitVec.toNat_ofBool, BitVec.toNat_ofNat]
  omega

/-- Settles O38, register by register. -/
theorem registerReadsAnswer : Obligations.RegisterReadsAnswer := by
  intro s
  have narrow {w : Nat} (r : BitVec w) : (.next (s.answer32 (r.setWidth 32)) : Host.Outcome State Fault Refusal) =
      .next { s with rdata := BitVec.ofNat 32 r.toNat } := congrArg _ (s.answer32_narrow r)
  refine ⟨rfl, ⟨s.statusWord, rfl, s.statusWord_toNat⟩, narrow _, narrow _, narrow _, narrow _, narrow _, rfl, rfl,
    narrow _, fun hs => if_neg hs, fun hs => ⟨Config.unspecifiedRead s.free, if_pos hs⟩, rfl, rfl, narrow _, rfl,
    fun a _ _ ha => ?_⟩
  exact exec_reservedSpace s (reservedTakes_wide rfl ha)

/-! ## Register writes -/

/-- Settles O39, flag by flag. -/
theorem statusWriteClearsFlags : Obligations.StatusWriteClearsFlags := by
  intro v s
  simp only [Bool.if_false_left, Bool.decide_eq_true, Bool.and_comm]
  rfl

/-- Settles O40: the field stored holds the word's low three bits. -/
theorem intEnWriteTakesEffectAtOnce : Obligations.IntEnWriteTakesEffectAtOnce := by
  intro v s
  have hfield : v.setWidth 3 = v.extractLsb' 0 3 := BitVec.setWidth_eq_extractLsb' (by decide)
  refine ⟨{ s with intEn := v.extractLsb' 0 3 }, by rw [← hfield]; rfl, rfl, ?_⟩
  rw [State.irq_eq_true]
  simp

/-- Settles O41: with the engine IDLE the write is made, and its field is the word's low bits. -/
theorem inputRegisterWritesStoreTheField : Obligations.InputRegisterWritesStoreTheField := by
  intro v s hs
  have hhalf : v.setWidth 16 = v.extractLsb' 0 16 := BitVec.setWidth_eq_extractLsb' (by decide)
  have hbyte : v.setWidth 8 = v.extractLsb' 0 8 := BitVec.setWidth_eq_extractLsb' (by decide)
  have made (w : State) : Host.Outcome.next (s.inputWrite w) = (.next w : Host.Outcome State Fault Refusal) :=
    congrArg _ (State.inputWrite_of_idle hs w)
  rw [← hhalf, ← hbyte]
  exact ⟨made _, made _, made _, made _, made _, made _, made _⟩

end Sys2Proof.Machine

/-! PROOFS of the family 70_reset_and_hazards: the state right after reset meets the invariant, and the `rst` event. -/

namespace Sys2Proof

/-- R6: the reference parameters meet the constraints. -/
theorem Params.reference_legal : Params.reference.Legal := by decide

end Sys2Proof

namespace Sys2Proof.Machine

/-- R180, R181: the reset values meet the conjuncts that speak of no running operation; the memory lists no byte. -/
theorem State.reset_staticInv : State.reset.StaticInv where
  params := Params.reference_legal
  memWf := .nil
  memIn := nofun
  polls := by decide
  cause := ⟨fun _ => rfl, fun _ => rfl⟩
  encLen := .inl rfl
  result := ⟨fun _ => ⟨rfl, rfl⟩, nofun⟩

/-- Settles O10: right after reset the engine is IDLE and the escape stage at rest, so only the conjuncts that speak
of no running operation remain. -/
theorem resetMeetsTheInvariant : Obligations.ResetMeetsTheInvariant :=
  State.reset_staticInv.inv_of_idle rfl rfl

/-- R180: the machine right after power-up is at the values `rst` gives. -/
theorem State.reset_rst : State.reset.rst = State.reset := rfl

/-- R180: the step of an `rst` event takes the event and resets the block, whatever the block was doing. -/
theorem step_of_rst {s : State} {ev : List Event} (h : s.events = .rst :: ev) :
    step s = .next { s with events := ev }.rst := by
  have hf : s.fetch = .reset := by simp only [State.fetch, State.nextEvent_of_cons h]
  rw [step_of_reset hf, State.advance_of_not_engine h nofun]

/-- Settles O12, from the step of an `rst` event and the flags and the STATUS word after it. -/
theorem rstResetsAllButTheBuffers : Obligations.RstResetsAllButTheBuffers := by
  refine ⟨State.reset_rst, fun s ev h => ⟨{ s with events := ev }.rst, step_of_rst h, ?_, ?_, rfl⟩⟩
  · exact State.irq_eq_false rfl rfl rfl
  · exact State.rst_statusWord _

end Sys2Proof.Machine
